-- ==== Sys2Proof/Word.lean ====
section
/-! DEFINITION. The value types of the block: the 32-bit word and the byte of
`spec/00_scope.md` R16, the sixteen-word file of `spec/10_state.md` R21 and R29,
the 64-byte keystream block of R30. Everything is unsigned (R16). -/

namespace Sys2Proof

/-- R16: a word, bit 0 least significant (`WORD_W = 32`, R6). -/
abbrev Word := BitVec 32

/-- R16: a byte. -/
abbrev Byte := BitVec 8

/-- R21, R29: sixteen words, indices 0 to 15 (`STATE_WORDS = 16`, R6). -/
abbrev Words := Vector Word 16

/-- R30: a keystream block (`BLOCK_BYTES = 64`, R6). -/
abbrev KeyBlock := Vector Byte 64

end Sys2Proof
end

