-- ==== Sys2Proof/Config.lean ====
section
/-! DEFINITION. The parameters `spec/00_scope.md` R6 and `spec/92_eei_decisions.md` leave OPEN for a
model to take as arguments. `ADDR_W` is the third OPEN parameter; the packet layout fixes it at 32
(R40, D5), so it is no field here. The values this hardware takes are `Machine.hardware`
(Machine/Params.lean). -/

namespace Sys2Proof

/-- R165, D8: which error a command reports when both its phase and its operands are wrong. -/
inductive ErrOrder where
  | stateFirst     -- the phase is judged before the operands (this hardware)
  | argumentFirst  -- stages 2 and 3 of R165 swapped
deriving DecidableEq, Repr

/-- R6: the OPEN parameters of the block. -/
structure Config where
  key128Enable : Bool   -- R99, D12: INIT also accepts a 16-byte key
  errOrder : ErrOrder   -- R165, D8
deriving DecidableEq, Repr

end Sys2Proof
end

