-- ==== Sys2Proof/Syntax.lean ====
section
/-! DEFINITION. The instructions: one constructor per row of `spec/opcode_table.json`, with the
operands the row and its rule give. Three have a packet (R62); FINAL assembles to an XFORM packet
(R73); ILLEGAL is the decoder's default row (R70); the other fifteen are the internal operations of
R10, which no packet selects. -/

namespace Sys2Proof

/-- R61: a command packet, the eight words `W0 .. W7`. -/
abbrev Packet := Vector Word 8

/-- R18, R41: a buffer descriptor; `valid = false` is KSC's absent or null buffer. -/
structure Desc where
  valid : Bool
  base : Word
  len : Word
deriving DecidableEq, Repr

/-- R110: the four wired rotation amounts of a quarter-round step. -/
inductive RotAmt where
  | r7 | r9 | r13 | r18
deriving DecidableEq, Repr

/-- The rows of the opcode table. -/
inductive Instr where
  /-- INIT, R95. -/
  | init (key nonce : Desc)
  /-- XFORM, R130: input buffer and offset, `COUNT`, output buffer and offset. -/
  | xform (src : Desc) (inOff count : Word) (dst : Desc) (outOff : Word)
  /-- DISPOSE, R150. -/
  | dispose
  /-- FINAL, R73: `FINAL in=[b,l]+o, count=n, out=a`. -/
  | final (src : Desc) (inOff count outBase : Word)
  /-- ILLEGAL, R70: a packet that is none of the three commands. -/
  | illegal (p : Packet)
  /-- ADD32, R80. -/
  | add32 (v w : Word)
  /-- ADD1_32, R81. -/
  | add1 (v : Word)
  /-- ROTL32, R82. -/
  | rotl32 (v : Word) (c : Nat)
  /-- LE32_LOAD, R83. -/
  | le32Load (buf : List Byte) (off : Nat)
  /-- LE32_STORE, R84. -/
  | le32Store (value : Word) (buf : List Byte) (off : Nat)
  /-- XOR32, R87. -/
  | xor32 (v w : Word)
  /-- QRSTEP, R110: on the working buffer `X`. -/
  | qrstep (t a b : Fin 16) (r : RotAmt)
  /-- QUARTERROUND, R111: on the four words of `X` at these indices. -/
  | quarterround (y0 y1 y2 y3 : Fin 16)
  /-- COLUMNROUND, R112. -/
  | columnround
  /-- ROWROUND, R113. -/
  | rowround
  /-- DOUBLEROUND, R114. -/
  | doubleround
  /-- PERMUTE, R115. -/
  | permute
  /-- BLOCK, R132: input address, output address, byte count. -/
  | block (a b : Word) (n : Nat)
  /-- CTR_INC, R133. -/
  | ctrInc
  /-- ZEROIZE, R151. -/
  | zeroize
deriving DecidableEq, Repr

end Sys2Proof
end

