-- ==== Sys2Proof/WellFormed.lean ====
section
/-! DEFINITION. Which terms of `Instr` are instructions of the block: the operand domains the rules
state, and the three match/mask rows of `spec/opcode_table.json` (R71), which say what an illegal
packet is. The decoder (Decode.lean) is written from the fields of R63 and R70 instead. -/

namespace Sys2Proof

/-- The rows of the opcode table that have an encoding (R62). -/
inductive TableRow where
  | init | xform | dispose
deriving DecidableEq, Repr

/-- R71: the match value of a row, on `W0`. -/
def TableRow.matchWord : TableRow → Word
  | .init => 0x00000001
  | .xform => 0x00000002
  | .dispose => 0x00000003

/-- R71: the mask of a row, on `W0`. -/
def TableRow.mask : TableRow → Word
  | .init => 0xFFFFFCFF
  | .xform => 0xFFFFFCFF
  | .dispose => 0xFFFFFFFF

/-- R71: a header word belongs to a row. -/
def TableRow.hits (r : TableRow) (w0 : Word) : Bool := w0 &&& r.mask == r.matchWord

/-- R71: the row of the opcode table a header word belongs to, `none` for the row ILLEGAL. -/
def headerRow (w0 : Word) : Option TableRow :=
  if TableRow.init.hits w0 then some .init
  else if TableRow.xform.hits w0 then some .xform
  else if TableRow.dispose.hits w0 then some .dispose
  else none

/-- R71: the row of the opcode table a packet belongs to. -/
def Packet.tableRow (p : Packet) : Option TableRow := headerRow p[0]

/-- The table row whose packet an instruction assembles to; FINAL assembles to XFORM (R73), and
an internal operation has no packet (R10). -/
def Instr.tableRow : Instr → Option TableRow
  | .init _ _ => some .init
  | .xform _ _ _ _ _ => some .xform
  | .dispose => some .dispose
  | .final _ _ _ _ => some .xform
  | .illegal _ => none
  | .add32 _ _ => none
  | .add1 _ => none
  | .rotl32 _ _ => none
  | .le32Load _ _ => none
  | .le32Store _ _ _ => none
  | .xor32 _ _ => none
  | .qrstep _ _ _ _ => none
  | .quarterround _ _ _ _ => none
  | .columnround => none
  | .rowround => none
  | .doubleround => none
  | .permute => none
  | .block _ _ _ => none
  | .ctrInc => none
  | .zeroize => none

/-- The operand domains of the rules. Every INIT, XFORM and FINAL term is well formed: a descriptor
that fails a check is an instruction, answered `InvalidArgument` (R96, R134). -/
def Instr.wellFormed : Instr → Bool
  | .init _ _ => true
  | .xform _ _ _ _ _ => true
  | .dispose => true
  | .final _ _ _ _ => true
  | .illegal p => p.tableRow.isNone                       -- R70, R71
  | .add32 _ _ => true
  | .add1 _ => true
  | .rotl32 _ c => decide (0 < c) && decide (c < 32)      -- R82
  | .le32Load buf off => decide (off + 4 ≤ buf.length)    -- R83
  | .le32Store _ buf off => decide (off + 4 ≤ buf.length) -- R84
  | .xor32 _ _ => true
  | .qrstep t a b _ => decide (t ≠ a) && decide (t ≠ b) && decide (a ≠ b)   -- R110
  | .quarterround y0 y1 y2 y3 => decide [y0, y1, y2, y3].Nodup              -- R111: four words
  | .columnround => true
  | .rowround => true
  | .doubleround => true
  | .permute => true
  | .block a b n =>                                       -- R132, R41
    decide (1 ≤ n) && decide (n ≤ 64) && decide (a.toNat + n ≤ 2 ^ 32) && decide (b.toNat + n ≤ 2 ^ 32)
  | .ctrInc => true
  | .zeroize => true

end Sys2Proof
end

