-- ==== Sys2Proof/Decode.lean ====
section
/-! DEFINITION. The packet decoder of `spec/30_encoding.md` R61 to R75, total on every 256-bit packet
(R70), the encoder after it, and the written form of R72. A packet is eight 32-bit values and has no byte order (R61). -/

namespace Sys2Proof

/-- R63: `OP`, bits 2..0 of `W0`. -/
def headerOp (w0 : Word) : BitVec 3 := w0.extractLsb' 0 3

/-- R63: the reserved bits 7..3 of `W0`. -/
def headerReservedLo (w0 : Word) : BitVec 5 := w0.extractLsb' 3 5

/-- R63: `A_VALID`, bit 8 of `W0`. -/
def headerAValid (w0 : Word) : Bool := w0.getLsbD 8

/-- R63: `B_VALID`, bit 9 of `W0`. -/
def headerBValid (w0 : Word) : Bool := w0.getLsbD 9

/-- R63: the reserved bits 31..10 of `W0`. -/
def headerReservedHi (w0 : Word) : BitVec 22 := w0.extractLsb' 10 22

/-- R70: the three ways a packet is illegal, each by its name. -/
inductive IllegalReason where
  | reservedOp        -- `OP` is 0 or 4 .. 7
  | reservedBits      -- a bit of `W0[7:3]` or `W0[31:10]` is 1
  | validOnDispose    -- `OP = DISPOSE` with `A_VALID` or `B_VALID`
deriving DecidableEq, Repr

/-- R70: why a packet is illegal, `none` if it is a command. -/
def illegalReason (p : Packet) : Option IllegalReason :=
  let w0 := p[0]
  let op := headerOp w0
  if op = 0 ∨ 4 ≤ op.toNat then some .reservedOp
  else if headerReservedLo w0 ≠ 0 ∨ headerReservedHi w0 ≠ 0 then some .reservedBits
  else if op = 3 ∧ (headerAValid w0 = true ∨ headerBValid w0 = true) then some .validOnDispose
  else none

/-- R71: the decode procedure. Words a format does not use are dropped (R75). -/
def decode (p : Packet) : Instr :=
  match illegalReason p with
  | some _ => .illegal p
  | none =>
    let w0 := p[0]
    if headerOp w0 = 1 then
      .init ⟨headerAValid w0, p[1], p[2]⟩ ⟨headerBValid w0, p[3], p[4]⟩
    else if headerOp w0 = 2 then
      .xform ⟨headerAValid w0, p[1], p[2]⟩ p[3] p[4] ⟨headerBValid w0, p[5], p[6]⟩ p[7]
    else .dispose

/-- R63: the header word of a command: its `OP` and the two `VALID` bits, every other bit 0. -/
def header (op : Word) (aValid bValid : Bool) : Word :=
  op ||| (if aValid then 0x100 else 0) ||| (if bValid then 0x200 else 0)

/-- R64: an INIT packet, its unused words written as zero (R75). -/
def encodeInit (key nonce : Desc) : Packet :=
  #v[header 1 key.valid nonce.valid, key.base, key.len, nonce.base, nonce.len, 0, 0, 0]

/-- R65: an XFORM packet. -/
def encodeXform (src : Desc) (inOff count : Word) (dst : Desc) (outOff : Word) : Packet :=
  #v[header 2 src.valid dst.valid, src.base, src.len, inOff, count, dst.base, dst.len, outOff]

/-- R66: the DISPOSE packet, its unused words written as zero (R75). -/
def encodeDispose : Packet := #v[header 3 false false, 0, 0, 0, 0, 0, 0, 0]

/-- R73: the output buffer the host sets aside for FINAL, `[a, n]`. -/
def finalDst (count outBase : Word) : Desc := ⟨true, outBase, count⟩

/-- R73: FINAL is the XFORM it expands to; every other instruction is itself. -/
def Instr.expand : Instr → Instr
  | .final src inOff count outBase => .xform src inOff count (finalDst count outBase) 0
  | .init key nonce => .init key nonce
  | .xform src inOff count dst outOff => .xform src inOff count dst outOff
  | .dispose => .dispose
  | .illegal p => .illegal p
  | .add32 v w => .add32 v w
  | .add1 v => .add1 v
  | .rotl32 v c => .rotl32 v c
  | .le32Load buf off => .le32Load buf off
  | .le32Store value buf off => .le32Store value buf off
  | .xor32 v w => .xor32 v w
  | .qrstep t a b r => .qrstep t a b r
  | .quarterround y0 y1 y2 y3 => .quarterround y0 y1 y2 y3
  | .columnround => .columnround
  | .rowround => .rowround
  | .doubleround => .doubleround
  | .permute => .permute
  | .block a b n => .block a b n
  | .ctrInc => .ctrInc
  | .zeroize => .zeroize

/-- The packet of a well-formed instruction; an internal operation has none (R10). -/
def encode : Instr → Option Packet
  | .init key nonce => some (encodeInit key nonce)
  | .xform src inOff count dst outOff => some (encodeXform src inOff count dst outOff)
  | .dispose => some encodeDispose
  | .final src inOff count outBase => some (encodeXform src inOff count (finalDst count outBase) 0)
  | .illegal p => some p
  | .add32 _ _ => none
  | .add1 _ => none
  | .rotl32 _ _ => none
  | .le32Load _ _ => none
  | .le32Store _ _ _ => none
  | .xor32 _ _ => none
  | .qrstep _ _ _ _ => none
  | .quarterround _ _ _ _ => none
  | .columnround => none
  | .rowround => none
  | .doubleround => none
  | .permute => none
  | .block _ _ _ => none
  | .ctrInc => none
  | .zeroize => none

/-- R72: a descriptor written down. -/
def Desc.text (d : Desc) : String :=
  if d.valid then "[" ++ toString d.base.toNat ++ "," ++ toString d.len.toNat ++ "]" else "null"

/-- R72: the line a command is written as, its numbers in decimal; only the four forms of R72 have
one. -/
def Instr.text : Instr → Option String
  | .init key nonce => some ("INIT key=" ++ key.text ++ ", nonce=" ++ nonce.text)
  | .xform src inOff count dst outOff =>
    some ("XFORM in=" ++ src.text ++ "+" ++ toString inOff.toNat ++ ", count=" ++
      toString count.toNat ++ ", out=" ++ dst.text ++ "+" ++ toString outOff.toNat)
  | .dispose => some "DISPOSE"
  | .final src inOff count outBase =>
    some ("FINAL in=" ++ src.text ++ "+" ++ toString inOff.toNat ++ ", count=" ++
      toString count.toNat ++ ", out=" ++ toString outBase.toNat)
  | .illegal _ => none
  | .add32 _ _ => none
  | .add1 _ => none
  | .rotl32 _ _ => none
  | .le32Load _ _ => none
  | .le32Store _ _ _ => none
  | .xor32 _ _ => none
  | .qrstep _ _ _ _ => none
  | .quarterround _ _ _ _ => none
  | .columnround => none
  | .rowround => none
  | .doubleround => none
  | .permute => none
  | .block _ _ _ => none
  | .ctrInc => none
  | .zeroize => none

/-- The packet whose 256 bits are `w`, word 0 in the lowest bits (the opcode table's numbering). -/
def packetOfNat (w : Nat) : Packet :=
  #v[BitVec.ofNat 32 w, BitVec.ofNat 32 (w >>> 32), BitVec.ofNat 32 (w >>> 64),
     BitVec.ofNat 32 (w >>> 96), BitVec.ofNat 32 (w >>> 128), BitVec.ofNat 32 (w >>> 160),
     BitVec.ofNat 32 (w >>> 192), BitVec.ofNat 32 (w >>> 224)]

/-- The packet of a table word of `nbits` bits, every bit above them 0. -/
def tablePacket (nbits w : Nat) : Packet := packetOfNat (w % 2 ^ nbits)

/-- What the decoder reads from a table word. It is total, so it always answers (R70). -/
def decodeTableWord (nbits w : Nat) : Option Instr := some (decode (tablePacket nbits w))

end Sys2Proof
end

