-- ==== Sys2Proof/Machine/State.lean ====
section
/-! DEFINITION. Everything the spec gives the machine, as plain data: the cipher state `S` and the
lifecycle phase (`spec/10_state.md` R20), the transient register files `X` and `KS` the internal
operations work on (R29, R30), the byte space (`spec/20_memory.md` R40), the response port and the
host's side of the command port (`spec/30_encoding.md` R60, `spec/00_scope.md` R15). -/

namespace Sys2Proof.Machine

/-- R26: the lifecycle phase. -/
inductive Phase where
  | uninitialized | ready | disposed
deriving DecidableEq, Repr

/-- R12, R160, R161: the two error kinds. -/
inductive ErrorKind where
  | invalidArgument | invalidState
deriving DecidableEq, Repr

/-- R68: the status of a response. -/
inductive Status where
  | ok
  | error (k : ErrorKind)
deriving DecidableEq, Repr

/-- R67: a response, its `STATUS` and its `BYTES_WRITTEN`. -/
structure Response where
  status : Status
  bytesWritten : Word
deriving DecidableEq, Repr

/-- R15: what the host does to the block, each between two commands (R51, R182; duties H1, H2, H5 of R187,
notes/assumptions/11.md). Duties H6 to H9 of R187 are not assumed: DESIGN CHOICE,
notes/assumptions/19.md. -/
inductive HostInput where
  | packet (p : Packet)             -- presents a command packet (R60)
  | write (addr : Word) (v : Byte)  -- writes a byte of the byte space (R15, R40)
  | reset                           -- asserts reset (R180)
deriving DecidableEq, Repr

/-- What an operator without a destination in the machine has put out (R86): `idle`, a word, or a
byte sequence. The model's own: no rule reads it (notes/assumptions/4.md). -/
inductive OpOut where
  | idle
  | word (w : Word)
  | bytes (bs : List Byte)
deriving DecidableEq, Repr

/-- R40: the byte space, the bytes that differ from what an unlisted address reads as, addresses
strictly rising. -/
abbrev Memory := List Host.Cell

/-- The machine. -/
structure State where
  /-- R21: the cipher state `S[0..15]`. -/
  S : Words
  /-- R26: `PHASE`. -/
  phase : Phase
  /-- R29: the working buffer `X[0..15]`, cleared whenever no command is in progress (R32, R35). -/
  X : Words
  /-- R30: the keystream block `KS[0..63]`, cleared likewise. -/
  KS : KeyBlock
  /-- R86: the output of an operator executed by itself (the model's own field). -/
  opOut : OpOut
  /-- R40: the byte space `Mem`. -/
  mem : Memory
  /-- R60, R67: the response port, the response to the last packet; `none` when none was returned. -/
  rsp : Option Response
  /-- R60: what the host has presented and the block has not taken yet, oldest first. -/
  inputs : List HostInput
deriving DecidableEq, Repr

/-- R35, R180: the machine after reset. `X` and `KS` do not exist between commands (R35) and are held
cleared; memory lists nothing; the host has presented nothing. -/
def State.reset : State where
  S := Vector.replicate 16 0
  phase := .uninitialized
  X := Vector.replicate 16 0
  KS := Vector.replicate 64 0
  opOut := .idle
  mem := []
  rsp := none
  inputs := []

/-- Why the machine stops with a fault. -/
inductive Fault where
  /-- Raised by `execBlock` only, when `a + n` or `b + n` passes `2^32`: the byte space ends there and
  addresses do not wrap (R40, R41). Safe: the hardware makes no such access. -/
  | noSuchAddress
deriving DecidableEq, Repr

/-- Why the machine gives an instruction no meaning. -/
inductive Refusal where
  /-- Raised by `exec` for an instruction without a meaning in this model. Safe. -/
  | notModelled (mnemonic : String)
  /-- Raised by `execXform`, `execFinal` and `execBlock` when the input and output regions partly
  overlap: "a model refuses such a command" (R52 case (c), U1). Safe. -/
  | partialOverlap
  /-- Raised by `execRotl32` for a count outside 1..31: "a model must not give one either" (R82, U2).
  Safe. -/
  | rotlCount
  /-- Raised by `execLe32Load` and `execLe32Store` when fewer than four bytes remain: the operators
  have a precondition and no error result (R83, R84, R175). Safe. -/
  | le32Bounds
  /-- Raised by `execQrstep` and `execQuarterround` when the indices are not distinct (R110, R111).
  Safe. -/
  | qrIndices
  /-- Raised by `execBlock` for a byte count outside 1..64 (R132). Safe. -/
  | blockCount
deriving DecidableEq, Repr

/-- How a step ends. -/
abbrev Result := Host.Outcome State Fault Refusal

end Sys2Proof.Machine
end

