-- ==== Sys2Proof/Machine/Params.lean ====
section
/-! DEFINITION. The values the hardware wires in (`spec/00_scope.md` R6, `spec/10_state.md` R27): no
instruction reads or writes them as state. SIGMA, TAU and the index wiring are the spec's GK1 to GK3. -/

namespace Sys2Proof.Machine

/-- R6, D8, D12: the parameter values of this hardware. -/
def hardware : Config where
  key128Enable := false
  errOrder := .stateFirst

/-- R40: `2^ADDR_W` byte addresses, `ADDR_W = 32`. -/
def addrSpace : Nat := 2 ^ 32

/-- R27: `ROUNDS`, hardwired. -/
def roundCount : Nat := 20

/-- R6: `KEY_BYTES`. -/
def keyBytes : Nat := 32

/-- R6: `NONCE_BYTES`. -/
def nonceBytes : Nat := 8

/-- R6: `BLOCK_BYTES`. -/
def blockBytes : Nat := 64

/-- R6, GK1: `SIGMA`, the ASCII string "expand 32-byte k". -/
def sigma : Vector Word 4 := #v[0x61707865, 0x3320646E, 0x79622D32, 0x6B206574]

/-- R6, GK2: `TAU`, the ASCII string "expand 16-byte k". -/
def tau : Vector Word 4 := #v[0x61707865, 0x3120646E, 0x79622D36, 0x6B206574]

/-- R110: the amount a wired rotation rotates by. -/
def rotAmount : RotAmt → Nat
  | .r7 => 7
  | .r9 => 9
  | .r13 => 13
  | .r18 => 18

end Sys2Proof.Machine
end

