-- ==== Sys2Proof/Machine/Flags.lean ====
section
/-! DEFINITION. The block has no flags and no condition codes (`spec/10_state.md` R28); what a command
reports is the status in its response. This file is that status: its codes (`spec/30_encoding.md` R67,
R68; `spec/60_exceptions.md` R163) and which error a command reports (R165). -/

namespace Sys2Proof.Machine

/-- R163: the code of an error kind. -/
def errorCode : ErrorKind → BitVec 2
  | .invalidArgument => 0b01
  | .invalidState => 0b10

/-- R68: the code of a status. -/
def statusCode : Status → BitVec 2
  | .ok => 0b00
  | .error k => errorCode k

/-- R67: response word `R0`, `STATUS` in bits 1..0 and zeros above. -/
def responseR0 (r : Response) : Word := (statusCode r.status).setWidth 32

/-- R67: response word `R1`, `BYTES_WRITTEN`. -/
def responseR1 (r : Response) : Word := r.bytesWritten

/-- R72: how a response is written. -/
def Response.text (r : Response) : String :=
  match r.status with
  | .ok => "-> OK(" ++ toString r.bytesWritten.toNat ++ ")"
  | .error .invalidArgument => "-> InvalidArgument"
  | .error .invalidState => "-> InvalidState"

/-- R160: the causes of `InvalidArgument`, A1 to A13. The response carries the kind only. -/
inductive ArgCause where
  | keyAbsent | nonceAbsent | keyLength | nonceLength | keyRange | nonceRange   -- A1 to A6
  | inputNull | outputNull | inputRange | outputRange | inputBounds | outputBounds   -- A7 to A12
  | illegalPacket   -- A13
deriving DecidableEq, Repr

/-- R165, stages 2 and 3: the error a legal command reports, from whether its phase allows it and which
operand check fails. -/
def firstError (o : ErrOrder) (phaseOk : Bool) (cause : Option ArgCause) : Option ErrorKind :=
  match o with
  | .stateFirst =>
    if !phaseOk then some .invalidState
    else if cause.isSome then some .invalidArgument
    else none
  | .argumentFirst =>
    if cause.isSome then some .invalidArgument
    else if !phaseOk then some .invalidState
    else none

end Sys2Proof.Machine
end

