-- ==== Sys2Proof/Machine/Ops.lean ====
section
/-! DEFINITION. The named operations the meanings share: updates of the state, the byte space
(`spec/20_memory.md`), the 32-bit operators (`spec/40_bitops.md`), the rounds (`spec/42_core.md`), and
the two ways a command ends, a success and an error (`spec/60_exceptions.md` R164, R167). -/

namespace Sys2Proof.Machine

/-! ### Updates of the state -/

def State.setS (s : State) (v : Words) : State := { s with S := v }
def State.setPhase (s : State) (p : Phase) : State := { s with phase := p }
def State.setX (s : State) (v : Words) : State := { s with X := v }
def State.setKS (s : State) (v : KeyBlock) : State := { s with KS := v }
def State.setOpOut (s : State) (o : OpOut) : State := { s with opOut := o }
def State.setMem (s : State) (m : Memory) : State := { s with mem := m }
def State.setRsp (s : State) (r : Option Response) : State := { s with rsp := r }
def State.setInputs (s : State) (l : List HostInput) : State := { s with inputs := l }

/-- Sixteen zero words (R151). -/
def zeroWords : Words := Vector.replicate 16 0

/-- Sixty-four zero bytes. -/
def zeroBlock : KeyBlock := Vector.replicate 64 0

/-- R32, D13: `X` and `KS` do not survive the step that made them. -/
def clearTransients (s : State) : State := ((s.setX zeroWords).setKS zeroBlock).setOpOut .idle

/-! ### The byte space -/

/-- What an address reads as that nothing has written: the spec gives the byte space no contents
(R35, R40). DESIGN CHOICE, notes/assumptions/1.md. -/
def unlistedByte : Byte := 0

/-- R45: `MemRead(a, 1)`. -/
def Memory.read : Memory → Nat → Byte
  | [], _ => unlistedByte
  | (b, w) :: m, a => if b = a then w else Memory.read m a

/-- R45: `MemWrite(a, 1, v)`, keeping the canonical form. -/
def Memory.write : Memory → Nat → Byte → Memory
  | [], a, v => if v = unlistedByte then [] else [(a, v)]
  | (b, w) :: m, a, v =>
    if b < a then (b, w) :: Memory.write m a v
    else if b = a then (if v = unlistedByte then m else (a, v) :: m)
    else (if v = unlistedByte then (b, w) :: m else (a, v) :: (b, w) :: m)

/-- The canonical form: addresses strictly rising and inside the byte space (R40), no entry equal to
what an unlisted address reads as. -/
abbrev Memory.wf (m : Memory) : Prop :=
  m.Pairwise (fun c d => c.1 < d.1) ∧ ∀ c ∈ m, c.1 < addrSpace ∧ c.2 ≠ unlistedByte

/-- R17: `MemRead(a, n)`, `n` single-byte reads in ascending order. -/
def Memory.readBytes (m : Memory) (a : Nat) : Nat → List Byte
  | 0 => []
  | n + 1 => m.read a :: Memory.readBytes m (a + 1) n

/-! ### The 32-bit operators -/

/-- R80: `ADD32`, `(v + w) mod 2^32`. -/
def add32 (v w : Word) : Word := v + w

/-- R81: `ADD1_32`. -/
def add1_32 (v : Word) : Word := add32 v 1

/-- R82: `ROTL32`, for `0 < c < 32`. -/
def rotl32 (v : Word) (c : Nat) : Word := (v <<< c) ||| (v >>> (32 - c))

/-- R87: `XOR32`. -/
def xor32 (v w : Word) : Word := v ^^^ w

/-- R87: `XOR8`, what the stream transform applies to data. -/
def xor8 (v w : Byte) : Byte := v ^^^ w

/-- R84: byte `k` of a word, `value[8k+7 : 8k]`. -/
def leByte (v : Word) (k : Nat) : Byte := v.extractLsb' (8 * k) 8

/-- R83: `LE32_LOAD`, for `off + 4 ≤ len`. -/
def le32Load (buf : List Byte) (off : Nat) : Word :=
  let b (k : Nat) : Nat := (buf.getD (off + k) 0).toNat
  BitVec.ofNat 32 (b 0 + b 1 * 2 ^ 8 + b 2 * 2 ^ 16 + b 3 * 2 ^ 24)

/-- R84: `LE32_STORE`, for `off + 4 ≤ len`. -/
def le32Store (value : Word) (buf : List Byte) (off : Nat) : List Byte :=
  (((buf.set off (leByte value 0)).set (off + 1) (leByte value 1)).set (off + 2)
    (leByte value 2)).set (off + 3) (leByte value 3)

/-! ### The rounds -/

/-- R110: `QRSTEP(X, t, a, b, r)` on a working buffer. -/
def qrStep (x : Words) (t a b : Fin 16) (r : RotAmt) : Words :=
  x.set t (xor32 x[t] (rotl32 (add32 x[a] x[b]) (rotAmount r)))

/-- R111: `QUARTERROUND` on the words of `x` at four indices, the four steps in sequence. -/
def quarterRound (x : Words) (y0 y1 y2 y3 : Fin 16) : Words :=
  let x := qrStep x y1 y0 y3 .r7
  let x := qrStep x y2 y1 y0 .r9
  let x := qrStep x y3 y2 y1 .r13
  qrStep x y0 y3 y2 .r18

/-- R112: `COLUMNROUND`, the four column groups. -/
def columnRound (x : Words) : Words :=
  let x := quarterRound x 0 4 8 12
  let x := quarterRound x 5 9 13 1
  let x := quarterRound x 10 14 2 6
  quarterRound x 15 3 7 11

/-- R113: `ROWROUND`, the four row groups. -/
def rowRound (x : Words) : Words :=
  let x := quarterRound x 0 1 2 3
  let x := quarterRound x 5 6 7 4
  let x := quarterRound x 10 11 8 9
  quarterRound x 15 12 13 14

/-- R114: `DOUBLEROUND`, column then row. -/
def doubleRound (x : Words) : Words := rowRound (columnRound x)

/-- R115: `n` iterations of `DOUBLEROUND`. -/
def doubleRounds : Nat → Words → Words
  | 0, x => x
  | n + 1, x => doubleRounds n (doubleRound x)

/-- R115: the working buffer after all the rounds, from a copy of `S`. -/
def coreRounds (S : Words) : Words := doubleRounds (roundCount / 2) S

/-- R115: the feed-forward `Z[i] = ADD32(X[i], S[i])`. -/
def feedForward (x S : Words) : Words := Vector.zipWith add32 x S

/-- R115: word `i` of `z` at keystream bytes `4i .. 4i+3`, little-endian. It is the sequence of
sixteen `LE32_STORE`s (`Laws.serialise_eq_stores`). -/
def serialise (z : Words) : KeyBlock :=
  Vector.ofFn fun j : Fin 64 => leByte (z[j.val / 4]'(by omega)) (j.val % 4)

/-- R115: the keystream block of a cipher state. -/
def keystream (S : Words) : KeyBlock := serialise (feedForward (coreRounds S) S)

/-- R30: byte `j` of a keystream block, `j < 64`. -/
def ksByte (ks : KeyBlock) (j : Nat) : Byte := ks[j]?.getD 0

/-! ### How a command ends -/

/-- R17: `respond OK(n)`. -/
def respond (n : Word) (s : State) : Result :=
  .next ((clearTransients s).setRsp (some ⟨.ok, n⟩))

/-- R164: taking an error, the block's only exception. Nothing of `S`, `PHASE` or the byte space
changes, nothing is saved and there is no handler to enter; the response is the kind, with
`BYTES_WRITTEN = 0`. The block then takes the next command like any other: there is no return
instruction (R167). -/
def raise (k : ErrorKind) (s : State) : Result :=
  .next ((clearTransients s).setRsp (some ⟨.error k, 0⟩))

/-- R165: a legal command, its checks before its effect. -/
def runCommand (cfg : Config) (phaseOk : Bool) (cause : Option ArgCause) (effect : State → Result)
    (s : State) : Result :=
  match firstError cfg.errOrder phaseOk cause with
  | some k => raise k s
  | none => effect s

end Sys2Proof.Machine
end

