-- ==== Sys2Proof/Machine/Operands.lean ====
section
/-! DEFINITION. The operand forms of the commands: buffer descriptors and regions (`spec/20_memory.md`
R41, R42, R52), and the operand checks of INIT (`spec/41_state_init.md` R96) and of XFORM
(`spec/43_stream_xor_transform.md` R134). Sums are unbounded naturals and cannot wrap (R69). -/

namespace Sys2Proof.Machine

/-- R41: the buffer does not run off the top of the byte space. -/
def descFits (d : Desc) : Bool := decide (d.base.toNat + d.len.toNat ≤ addrSpace)

/-- R42: `count` bytes at `off` are inside the buffer's length. -/
def regionFits (d : Desc) (off count : Word) : Bool := decide (off.toNat + count.toNat ≤ d.len.toNat)

/-- R42: the address of a region's byte 0. -/
def regionStart (d : Desc) (off : Word) : Nat := d.base.toNat + off.toNat

/-- R52 case (c): two regions of `n` bytes at `a` and `b` intersect without being the same. -/
def partlyOverlap (a b n : Nat) : Bool := decide (a ≠ b) && (decide (a < b + n) && decide (b < a + n))

/-- R96 check 4: the key lengths INIT accepts. -/
def keyLenOk (cfg : Config) (len : Word) : Bool :=
  decide (len.toNat = keyBytes) || (cfg.key128Enable && decide (len.toNat = 16))

/-- R96, checks 2 to 7: the operand check of INIT that fails first. -/
def initCause (cfg : Config) (key nonce : Desc) : Option ArgCause :=
  if !key.valid then some .keyAbsent
  else if !nonce.valid then some .nonceAbsent
  else if !keyLenOk cfg key.len then some .keyLength
  else if nonce.len.toNat < nonceBytes then some .nonceLength
  else if !descFits key then some .keyRange
  else if !descFits nonce then some .nonceRange
  else none

/-- R134, checks 1 to 6: the operand check of XFORM that fails first. -/
def xformCause (src : Desc) (inOff count : Word) (dst : Desc) (outOff : Word) : Option ArgCause :=
  if !src.valid then some .inputNull
  else if !dst.valid then some .outputNull
  else if !descFits src then some .inputRange
  else if !descFits dst then some .outputRange
  else if !regionFits src inOff count then some .inputBounds
  else if !regionFits dst outOff count then some .outputBounds
  else none

end Sys2Proof.Machine
end

