-- ==== Sys2Proof/Machine/BitOps.lean ====
section
/-! DEFINITION. The operators of `spec/40_bitops.md`, executed by themselves: each puts its result out
(`State.opOut`) and changes nothing else (R86). No packet selects one (R10). -/

namespace Sys2Proof.Machine

/-- ADD32, R80. -/
def execAdd32 (v w : Word) (s : State) : Result := .next (s.setOpOut (.word (add32 v w)))

/-- ADD1_32, R81. -/
def execAdd1 (v : Word) (s : State) : Result := .next (s.setOpOut (.word (add1_32 v)))

/-- ROTL32, R82: no value outside `0 < c < 32` (U2). -/
def execRotl32 (v : Word) (c : Nat) (s : State) : Result :=
  if 0 < c ∧ c < 32 then .next (s.setOpOut (.word (rotl32 v c))) else .refused .rotlCount

/-- LE32_LOAD, R83: `off + 4 ≤ len` is a precondition (R175). -/
def execLe32Load (buf : List Byte) (off : Nat) (s : State) : Result :=
  if off + 4 ≤ buf.length then .next (s.setOpOut (.word (le32Load buf off))) else .refused .le32Bounds

/-- LE32_STORE, R84: `off + 4 ≤ len` is a precondition (R175). -/
def execLe32Store (value : Word) (buf : List Byte) (off : Nat) (s : State) : Result :=
  if off + 4 ≤ buf.length then .next (s.setOpOut (.bytes (le32Store value buf off)))
  else .refused .le32Bounds

/-- XOR32, R87. -/
def execXor32 (v w : Word) (s : State) : Result := .next (s.setOpOut (.word (xor32 v w)))

end Sys2Proof.Machine
end

