-- ==== Sys2Proof/Machine/Dispose.lean ====
section
/-! DEFINITION. Zeroisation, the DISPOSE command (`spec/44_dispose.md`), and the answer to an illegal
packet (`spec/30_encoding.md` R70). -/

namespace Sys2Proof.Machine

/-- R151: `ZEROIZE`, all sixteen words. -/
def zeroize (s : State) : State := s.setS zeroWords

/-- ZEROIZE, R151. -/
def execZeroize (s : State) : Result := .next (zeroize s)

/-- DISPOSE, R151, R153, R154. -/
def execDispose (s : State) : Result :=
  match s.phase with
  | .uninitialized => respond 0 s
  | .ready => respond 0 ((zeroize s).setPhase .disposed)
  | .disposed => respond 0 ((zeroize s).setPhase .disposed)

/-- ILLEGAL, R70, in every phase (R165 stage 1). The packet has no further part in it. -/
def execIllegal (_p : Packet) (s : State) : Result := raise .invalidArgument s

end Sys2Proof.Machine
end

