-- ==== Sys2Proof/Machine/Port.lean ====
section
/-! DEFINITION. The host's moves that are no command (`spec/00_scope.md` R15): reset
(`spec/70_reset_and_hazards.md` R180) and a write of the byte space between commands; and what the
block does when the host presents nothing. -/

namespace Sys2Proof.Machine

/-- R180: reset ends the instance; the byte space is untouched. -/
def hostReset (s : State) : Result :=
  .next ((((clearTransients s).setS zeroWords).setPhase .uninitialized).setRsp none)

/-- R15, R40: the host writes one byte of the byte space. -/
def hostWrite (a : Word) (v : Byte) (s : State) : Result := .next (s.setMem (s.mem.write a.toNat v))

/-- R166: nothing happens except in response to a command or reset; the block waits (R180). -/
def idle (s : State) : Result := .next s

/-- The packet of a table word put first among what the host has presented. -/
def presentFirst (nbits w : Nat) (s : State) : State :=
  s.setInputs (.packet (tablePacket nbits w) :: s.inputs)

end Sys2Proof.Machine
end

