-- ==== Sys2Proof/Machine/StateInit.lean ====
section
/-! DEFINITION. `salsa20_state_init`: the INIT command (`spec/41_state_init.md`). -/

namespace Sys2Proof.Machine

/-- R97: the state words of a 32-byte key. -/
def stateWords32 (key nonce : List Byte) : Words :=
  #v[sigma[0], le32Load key 0, le32Load key 4, le32Load key 8,
     le32Load key 12, sigma[1], le32Load nonce 0, le32Load nonce 4,
     0, 0, sigma[2], le32Load key 16,
     le32Load key 20, le32Load key 24, le32Load key 28, sigma[3]]

/-- R99: the state words of a 16-byte key. -/
def stateWords16 (key nonce : List Byte) : Words :=
  #v[tau[0], le32Load key 0, le32Load key 4, le32Load key 8,
     le32Load key 12, tau[1], le32Load nonce 0, le32Load nonce 4,
     0, 0, tau[2], le32Load key 0,
     le32Load key 4, le32Load key 8, le32Load key 12, tau[3]]

/-- R97, R99, R101: the words INIT loads, reading `KEY_LEN` key bytes and 8 nonce bytes. -/
def initWords (key nonce : Desc) (m : Memory) : Words :=
  let n := m.readBytes nonce.base.toNat nonceBytes
  if key.len.toNat = keyBytes then stateWords32 (m.readBytes key.base.toNat keyBytes) n
  else stateWords16 (m.readBytes key.base.toNat 16) n

/-- R97: the effect of INIT once every check has passed. -/
def initEffect (key nonce : Desc) (s : State) : Result :=
  respond 0 ((s.setS (initWords key nonce s.mem)).setPhase .ready)

/-- R96: INIT under a choice of the OPEN parameters. -/
def initWith (cfg : Config) (key nonce : Desc) (s : State) : Result :=
  runCommand cfg (decide (s.phase = .uninitialized)) (initCause cfg key nonce)
    (initEffect key nonce) s

/-- INIT, R95 to R102. -/
def execInit (key nonce : Desc) (s : State) : Result := initWith hardware key nonce s

end Sys2Proof.Machine
end

