-- ==== Sys2Proof/Machine/Permute.lean ====
section
/-! DEFINITION. `salsa20_core` (`spec/42_core.md`): the round operations on the working buffer `X`, and
PERMUTE, which reads `S` and writes `X` and `KS` (`spec/10_state.md` R25). -/

namespace Sys2Proof.Machine

/-- QRSTEP, R110: three distinct indices. -/
def execQrstep (t a b : Fin 16) (r : RotAmt) (s : State) : Result :=
  if t ≠ a ∧ t ≠ b ∧ a ≠ b then .next (s.setX (qrStep s.X t a b r)) else .refused .qrIndices

/-- QUARTERROUND, R111: on four words of `X`. -/
def execQuarterround (y0 y1 y2 y3 : Fin 16) (s : State) : Result :=
  if [y0, y1, y2, y3].Nodup then .next (s.setX (quarterRound s.X y0 y1 y2 y3))
  else .refused .qrIndices

/-- COLUMNROUND, R112. -/
def execColumnround (s : State) : Result := .next (s.setX (columnRound s.X))

/-- ROWROUND, R113. -/
def execRowround (s : State) : Result := .next (s.setX (rowRound s.X))

/-- DOUBLEROUND, R114. -/
def execDoubleround (s : State) : Result := .next (s.setX (doubleRound s.X))

/-- R115: `X` is the working buffer after the rounds and `KS` the block; `S` is read only (R116). -/
def permute (s : State) : State :=
  let x := coreRounds s.S
  (s.setX x).setKS (serialise (feedForward x s.S))

/-- PERMUTE, R115. -/
def execPermute (s : State) : Result := .next (permute s)

end Sys2Proof.Machine
end

