-- ==== Sys2Proof/Machine/StreamXor.lean ====
section
/-! DEFINITION. `salsa20_stream_xor_transform` (`spec/43_stream_xor_transform.md`): the block counter, one
chunk, the XFORM command, and FINAL, which is an XFORM (R73, R138). -/

namespace Sys2Proof.Machine

/-- R24: the 64-bit block counter, `CTR = S[9] * 2^32 + S[8]`. -/
def counter (S : Words) : Nat := S[9].toNat * 2 ^ 32 + S[8].toNat

/-- R133: `CTR_INC` on the cipher state; the carry is found by comparing the new low word with 0. -/
def incCounter (S : Words) : Words :=
  let lo := add1_32 S[8]
  let S := S.set 8 lo
  if lo = 0 then S.set 9 (add1_32 S[9]) else S

/-- R132: bytes `0 .. n-1` of a chunk in ascending order, each read and then written. -/
def xorBytes (ks : KeyBlock) (a b : Nat) : Nat → Memory → Memory
  | 0, m => m
  | n + 1, m =>
    let m := xorBytes ks a b n m
    m.write (b + n) (xor8 (m.read (a + n)) (ksByte ks n))

/-- R132: `BLOCK(a, b, n)`: permute on the current state, XOR, then advance the counter. `X` and `KS`
are dead after it (R30, R32). -/
def runBlock (a b n : Nat) (s : State) : State :=
  let s := permute s
  let s := s.setMem (xorBytes s.KS a b n s.mem)
  clearTransients (s.setS (incCounter s.S))

/-- BLOCK, R132, by itself: `1 ≤ n ≤ 64`, inside the byte space (R41), and no partial overlap, whose
access order R49 leaves free (R52). -/
def execBlock (a b : Word) (n : Nat) (s : State) : Result :=
  if ¬(1 ≤ n ∧ n ≤ blockBytes) then .refused .blockCount
  else if ¬(a.toNat + n ≤ addrSpace ∧ b.toNat + n ≤ addrSpace) then .fault .noSuchAddress
  else if partlyOverlap a.toNat b.toNat n then .refused .partialOverlap
  else .next (runBlock a.toNat b.toNat n s)

/-- CTR_INC, R133. -/
def execCtrInc (s : State) : Result := .next (s.setS (incCounter s.S))

/-- R131: the number of chunks, `ceil(COUNT / 64)`. -/
def chunkCount (count : Nat) : Nat := (count + (blockBytes - 1)) / blockBytes

/-- R131: the loop over the chunks, from position `pos`, for at most `fuel` chunks. -/
def xformLoop (src dst count : Nat) : (fuel pos : Nat) → State → State
  | 0, _, s => s
  | fuel + 1, pos, s =>
    if pos < count then
      let n := min blockBytes (count - pos)
      xformLoop src dst count fuel (pos + n) (runBlock (src + pos) (dst + pos) n s)
    else s

/-- R131, R52: the effect of XFORM once every check has passed; a partial overlap has no meaning. -/
def xformEffect (src : Desc) (inOff count : Word) (dst : Desc) (outOff : Word) (s : State) : Result :=
  let a := regionStart src inOff
  let b := regionStart dst outOff
  let n := count.toNat
  if partlyOverlap a b n then .refused .partialOverlap
  else respond count (xformLoop a b n (chunkCount n) 0 s)

/-- R134, R142: XFORM under a choice of the OPEN parameters. -/
def xformWith (cfg : Config) (src : Desc) (inOff count : Word) (dst : Desc) (outOff : Word)
    (s : State) : Result :=
  runCommand cfg (decide (s.phase = .ready)) (xformCause src inOff count dst outOff)
    (xformEffect src inOff count dst outOff) s

/-- XFORM, R130 to R142. -/
def execXform (src : Desc) (inOff count : Word) (dst : Desc) (outOff : Word) (s : State) : Result :=
  xformWith hardware src inOff count dst outOff s

/-- FINAL, R73, R138: the XFORM into the `n` bytes the host set aside at `outBase`. -/
def execFinal (src : Desc) (inOff count outBase : Word) (s : State) : Result :=
  xformWith hardware src inOff count (finalDst count outBase) 0 s

end Sys2Proof.Machine
end

