-- ==== Sys2Proof/Machine/Dispatch.lean ====
section
/-! DEFINITION. One arm per row of `spec/opcode_table.json`. -/

namespace Sys2Proof.Machine

def exec (i : Instr) (s : State) : Host.Outcome State Fault Refusal :=
  match i with
  | .init key nonce => Sys2Proof.Machine.execInit key nonce s
  | .xform src inOff count dst outOff => Sys2Proof.Machine.execXform src inOff count dst outOff s
  | .dispose => Sys2Proof.Machine.execDispose s
  | .final src inOff count outBase => Sys2Proof.Machine.execFinal src inOff count outBase s
  | .illegal p => Sys2Proof.Machine.execIllegal p s
  | .add32 v w => Sys2Proof.Machine.execAdd32 v w s
  | .add1 v => Sys2Proof.Machine.execAdd1 v s
  | .rotl32 v c => Sys2Proof.Machine.execRotl32 v c s
  | .le32Load buf off => Sys2Proof.Machine.execLe32Load buf off s
  | .le32Store value buf off => Sys2Proof.Machine.execLe32Store value buf off s
  | .xor32 v w => Sys2Proof.Machine.execXor32 v w s
  | .qrstep t a b r => Sys2Proof.Machine.execQrstep t a b r s
  | .quarterround y0 y1 y2 y3 => Sys2Proof.Machine.execQuarterround y0 y1 y2 y3 s
  | .columnround => Sys2Proof.Machine.execColumnround s
  | .rowround => Sys2Proof.Machine.execRowround s
  | .doubleround => Sys2Proof.Machine.execDoubleround s
  | .permute => Sys2Proof.Machine.execPermute s
  | .block a b n => Sys2Proof.Machine.execBlock a b n s
  | .ctrInc => Sys2Proof.Machine.execCtrInc s
  | .zeroize => Sys2Proof.Machine.execZeroize s

end Sys2Proof.Machine
end

