-- ==== Sys2Proof/Machine/Step.lean ====
section
/-! DEFINITION. One step: the block takes what the host presented first. One command is one atomic step
(`spec/00_scope.md` R7); its packet comes from the command port, not from memory (R53, R60). -/

namespace Sys2Proof.Machine

/-- R7, R60: the oldest input is taken and acted on whole; with none presented the block waits. -/
def step (s : State) : Host.Outcome State Fault Refusal :=
  match s.inputs with
  | [] => idle s
  | .packet p :: rest => exec (decode p) (s.setInputs rest)
  | .write a v :: rest => hostWrite a v (s.setInputs rest)
  | .reset :: rest => hostReset (s.setInputs rest)

/-- `s` with the packet of a table word presented before everything else. -/
def State.withFetchWord (s : State) (nbits w : Nat) : State := presentFirst nbits w s

end Sys2Proof.Machine
end

