-- ==== Sys2Proof/Safety.lean ====
section
/-! DEFINITION. The terms claims are made in: what holds of every state between commands
(`spec/10_state.md` R36), what it is to be answered, a sequence of instructions, and the readings of
`S` and of a packet the rules use. -/

namespace Sys2Proof

/-- The instructions a packet can select, FINAL by its expansion (R62, R70, R73). -/
def Instr.isCommand (i : Instr) : Bool := (encode i).isSome

/-- The instructions that store to the byte space when they store at all (R48, R132). -/
def Instr.mayStore : Instr → Bool
  | .xform _ _ _ _ _ => true
  | .final _ _ _ _ => true
  | .block _ _ _ => true
  | _ => false

end Sys2Proof

namespace Sys2Proof.Machine

/-- R36 items 1 to 3 and R32, with the canonical form of the byte space: what every step keeps. -/
structure State.Inv (s : State) : Prop where
  /-- the byte space is in canonical form -/
  memWf : Memory.wf s.mem
  /-- R36 items 1 and 2: outside `Ready` every word of `S` is zero -/
  zeroUnlessReady : s.phase ≠ .ready → ∀ i : Fin 16, s.S[i] = 0
  /-- R36 item 3: in `Ready` the constant words are SIGMA -/
  sigmaWhenReady : s.phase = .ready →
    s.S[0] = 0x61707865 ∧ s.S[5] = 0x3320646E ∧ s.S[10] = 0x79622D32 ∧ s.S[15] = 0x6B206574
  /-- R32, R35: no working buffer and no keystream between commands -/
  noTransients : s.X = zeroWords ∧ s.KS = zeroBlock ∧ s.opOut = .idle

/-- The result is a next state with a response of this status and byte count. -/
def Answers (r : Result) (st : Status) (n : Word) (t : State) : Prop :=
  r = .next t ∧ t.rsp = some ⟨st, n⟩

/-- A sequence of instructions, stopping at the first fault or refusal. -/
def execAll : List Instr → State → Result
  | [], s => .next s
  | i :: is, s =>
    match exec i s with
    | .next t => execAll is t
    | .fault f => .fault f
    | .refused r => .refused r

/-- R24: the cipher state with the counter words holding `c`, low word first. -/
def withCounter (S : Words) (c : Nat) : Words :=
  (S.set 8 (BitVec.ofNat 32 c)).set 9 (BitVec.ofNat 32 (c / 2 ^ 32))

/-- R143: the keystream byte that byte `k` of an XFORM from cipher state `S` meets. -/
def streamByte (S : Words) (k : Nat) : Byte :=
  ksByte (keystream (withCounter S ((counter S + k / 64) % 2 ^ 64))) (k % 64)

/-- R113, R117: the four by four matrix of words transposed, index `4i + j` to `4j + i`. -/
def transposeWords (x : Words) : Words :=
  Vector.ofFn fun k : Fin 16 => x[4 * (k.val % 4) + k.val / 4]'(by omega)

end Sys2Proof.Machine
end

