-- ==== Sys2Proof/Certificates/Slice0/Obligations.lean ====
section
/-! DEFINITION. The statements for the provers. Each docstring names the rules it rests on.
`State.opOut` is the model's own field (notes/assumptions/4.md), and so is holding `X` and `KS` in the
state, cleared between commands (notes/assumptions/3.md): a clause that names them is the model's way
of saying where a result is, not the spec's. -/

open Sys2Proof Sys2Proof.Machine

/-! ### Encoding -/

/-- The packets of V-ENC1, V-ENC2, V-ENC3 and V-ENC5, the all-zero packet and the packets of V-ILL3 and
V-ILL4, written out from `30_encoding.md`, decode as they say. A sanity statement. -/
def Obligations.SpecPacketsDecode : Prop :=
  decode #v[0x00000301, 0x100, 0x20, 0x200, 8, 0, 0, 0] = .init ⟨true, 0x100, 32⟩ ⟨true, 0x200, 8⟩ ∧
  decode #v[0x00000302, 0x1000, 0x64, 0, 0x64, 0x2000, 0x64, 0] =
    .xform ⟨true, 0x1000, 100⟩ 0 100 ⟨true, 0x2000, 100⟩ 0 ∧
  decode #v[0x00000003, 0, 0, 0, 0, 0, 0, 0] = .dispose ∧
  decode #v[0x00000201, 0, 0, 0x200, 8, 0, 0, 0] = .init ⟨false, 0, 0⟩ ⟨true, 0x200, 8⟩ ∧
  decode #v[0, 0, 0, 0, 0, 0, 0, 0] = .illegal #v[0, 0, 0, 0, 0, 0, 0, 0] ∧
  decode #v[0x00000403, 0, 0, 0, 0, 0, 0, 0] = .illegal #v[0x00000403, 0, 0, 0, 0, 0, 0, 0] ∧
  decode #v[0x00000103, 0, 0, 0, 0, 0, 0, 0] = .illegal #v[0x00000103, 0, 0, 0, 0, 0, 0, 0]

/-- R62 to R66, R70, R73: decoding the packet of a well-formed instruction gives the instruction back,
at every value of every operand; FINAL comes back as the XFORM it expands to. -/
def Obligations.DecodeUndoesEncode : Prop :=
  ∀ (i : Instr) (p : Packet), i.wellFormed = true → encode i = some p → decode p = i.expand

/-- R71, R75: encoding what was decoded gives a packet with the same header that decodes the same, and
for XFORM and for an illegal packet the very same packet. -/
def Obligations.EncodeUndoesDecode : Prop :=
  ∀ p : Packet, ∃ q : Packet, encode (decode p) = some q ∧ q[0] = p[0] ∧ decode q = decode p ∧
    (p.tableRow = some .xform ∨ p.tableRow = none → q = p)

/-- R71: the decoder, written from the fields of R63, follows the match and mask values: which record is
built from which words for each of the three rows, and a packet that matches none is illegal. -/
def Obligations.DecodeFollowsMatchAndMask : Prop :=
  ∀ p : Packet,
    (p[0] &&& 0xFFFFFCFF = 1 →
      decode p = .init ⟨p[0].getLsbD 8, p[1], p[2]⟩ ⟨p[0].getLsbD 9, p[3], p[4]⟩) ∧
    (p[0] &&& 0xFFFFFCFF = 2 →
      decode p = .xform ⟨p[0].getLsbD 8, p[1], p[2]⟩ p[3] p[4] ⟨p[0].getLsbD 9, p[5], p[6]⟩ p[7]) ∧
    (p[0] = 3 → decode p = .dispose) ∧
    (p[0] &&& 0xFFFFFCFF ≠ 1 → p[0] &&& 0xFFFFFCFF ≠ 2 → p[0] ≠ 3 → decode p = .illegal p)

/-- R75: operand words a format does not use, and the base and length of a descriptor that is not
valid, have no effect, whatever they hold. -/
def Obligations.UnusedWordsHaveNoEffect : Prop :=
  (∀ p q : Packet, p[0] &&& 0xFFFFFCFF = 1 → q[0] = p[0] → q[1] = p[1] → q[2] = p[2] →
    q[3] = p[3] → q[4] = p[4] → decode q = decode p) ∧
  (∀ p q : Packet, p[0] = 3 → q[0] = 3 → decode q = decode p) ∧
  (∀ (b l b' l' : Word) (nonce : Desc) (s : State),
    exec (.init ⟨false, b, l⟩ nonce) s = exec (.init ⟨false, b', l'⟩ nonce) s) ∧
  (∀ (b l b' l' : Word) (key : Desc) (s : State),
    exec (.init key ⟨false, b, l⟩) s = exec (.init key ⟨false, b', l'⟩) s) ∧
  (∀ (b l b' l' inOff count outOff : Word) (dst : Desc) (s : State),
    exec (.xform ⟨false, b, l⟩ inOff count dst outOff) s =
      exec (.xform ⟨false, b', l'⟩ inOff count dst outOff) s) ∧
  (∀ (b l b' l' inOff count outOff : Word) (src : Desc) (s : State),
    exec (.xform src inOff count ⟨false, b, l⟩ outOff) s =
      exec (.xform src inOff count ⟨false, b', l'⟩ outOff) s) ∧
  (∀ (b l b' l' inOff count outBase : Word) (s : State),
    exec (.final ⟨false, b, l⟩ inOff count outBase) s =
      exec (.final ⟨false, b', l'⟩ inOff count outBase) s)

/-- R67, R68, R163: the response words. `R0` is 0, 1 or 2, never 3, and tells the status; `R1` is
`BYTES_WRITTEN`. -/
def Obligations.ResponseWords : Prop :=
  ∀ n : Word,
    responseR0 ⟨.ok, n⟩ = 0 ∧ responseR0 ⟨.error .invalidArgument, n⟩ = 1 ∧
    responseR0 ⟨.error .invalidState, n⟩ = 2 ∧ ∀ r : Response, responseR1 r = r.bytesWritten

/-! ### The port and reset -/

/-- R7, R60: a step with a packet presented first is the decoded instruction, run on the state with that
packet taken. -/
def Obligations.StepRunsThePresentedPacket : Prop :=
  ∀ (s : State) (p : Packet) (rest : List HostInput), s.inputs = .packet p :: rest →
    step s = exec (decode p) { s with inputs := rest }

/-- R15, R40, R166: with nothing presented the block stays as it is; a byte the host writes is read
back at its address, and nothing else changes. The list of inputs and the waiting step are the
model's (notes/assumptions/2.md, 6.md). -/
def Obligations.IdleAndHostWrite : Prop :=
  (∀ s : State, s.inputs = [] → step s = .next s) ∧
  (∀ (s : State) (a : Word) (v : Byte) (rest : List HostInput), s.inputs = .write a v :: rest →
    Memory.wf s.mem → ∃ m, step s = .next { s with mem := m, inputs := rest } ∧
      ∀ x, m.read x = if x = a.toNat then v else s.mem.read x)

/-- R180: reset, from any state: all sixteen words 0, `Uninitialized`, no response pending, the byte space
untouched, as the block is after power-on; then, with nothing presented, it waits. That `X`, `KS` and
`opOut` are clear after it is the model's form of R35 (notes/assumptions/3.md, 4.md), and the waiting
step is the model's (notes/assumptions/2.md). -/
def Obligations.ResetInput : Prop :=
  ∀ (s : State) (rest : List HostInput), s.inputs = .reset :: rest →
    ∃ t, step s = .next t ∧ (∀ i : Fin 16, t.S[i] = 0) ∧ t.phase = .uninitialized ∧ t.rsp = none ∧
      t.mem = s.mem ∧ t.inputs = rest ∧ t = { State.reset with mem := s.mem, inputs := rest } ∧
      (rest = [] → step t = .next t)

/-- R35: the state right after reset. That the byte space lists nothing and that nothing is presented are
the model's choice (notes/assumptions/1.md, 6.md). -/
def Obligations.ResetState : Prop :=
  (∀ i : Fin 16, State.reset.S[i] = 0) ∧ State.reset.phase = .uninitialized ∧ State.reset.rsp = none ∧
  counter State.reset.S = 0 ∧ State.reset.mem = [] ∧ State.reset.inputs = []

/-- R60: a packet that gets a next state gets a response, its own, whatever response stood there before,
and is taken; what was presented behind it stays in order. -/
def Obligations.EveryPacketIsAnswered : Prop :=
  ∀ (s t : State) (p : Packet) (rest : List HostInput), s.inputs = .packet p :: rest →
    step s = .next t →
    (∃ r, t.rsp = some r) ∧ t.inputs = rest ∧ ∀ r' : Option Response, step { s with rsp := r' } = .next t

/-- R12, R52 (c): no step faults, and the one refusal is an accepted XFORM whose regions partly overlap. -/
def Obligations.StepStopsOnlyOnPartialOverlap : Prop :=
  ∀ s : State,
    (∀ f, step s ≠ .fault f) ∧
    (∀ r, step s = .refused r → r = .partialOverlap ∧ s.phase = .ready ∧
      ∃ p rest src inOff count dst outOff, s.inputs = .packet p :: rest ∧
        decode p = .xform src inOff count dst outOff ∧
        xformCause src inOff count dst outOff = none ∧
        src.base.toNat + inOff.toNat ≠ dst.base.toNat + outOff.toNat ∧
        src.base.toNat + inOff.toNat < dst.base.toNat + outOff.toNat + count.toNat ∧
        dst.base.toNat + outOff.toNat < src.base.toNat + inOff.toNat + count.toNat)

/-! ### The invariant and the whole-machine rules -/

/-- R36 holds of the state after reset. That `X`, `KS` and `opOut` are clear is the model's form of
R35 (notes/assumptions/3.md, 4.md). -/
def Obligations.InvAtReset : Prop := State.reset.Inv

/-- R36, R32: every step keeps the invariant, from every state that has it. That `X`, `KS` and
`opOut` are clear between commands is the model's form of R32 (notes/assumptions/3.md, 4.md). -/
def Obligations.InvKeptByStep : Prop :=
  ∀ s t : State, s.Inv → step s = .next t → t.Inv

/-- R23: while the block stays `Ready`, no step changes any word of `S` but the counter words. -/
def Obligations.OnlyCounterWordsChangeWhileReady : Prop :=
  ∀ (s t : State) (i : Fin 16), step s = .next t → s.phase = .ready → t.phase = .ready →
    i ≠ 8 → i ≠ 9 → t.S[i] = s.S[i]

/-- R24, R144: while the block stays `Ready`, only an XFORM answered OK, with a positive `COUNT`, moves
the counter. -/
def Obligations.OnlyXformMovesTheCounter : Prop :=
  ∀ s t : State, step s = .next t → s.phase = .ready → t.phase = .ready →
    counter t.S ≠ counter s.S →
    ∃ p rest src inOff count dst outOff, s.inputs = .packet p :: rest ∧
      decode p = .xform src inOff count dst outOff ∧ 0 < count.toNat ∧ t.rsp = some ⟨.ok, count⟩

/-- R26: `PHASE` is written only by a successful INIT, by DISPOSE and by reset, each along its own
edge. -/
def Obligations.PhaseChangesOnlyAlongItsEdges : Prop :=
  ∀ s t : State, step s = .next t → t.phase ≠ s.phase →
    (∃ p rest key nonce, s.inputs = .packet p :: rest ∧ decode p = .init key nonce ∧
      s.phase = .uninitialized ∧ t.phase = .ready ∧ t.rsp = some ⟨.ok, 0⟩) ∨
    (∃ p rest, s.inputs = .packet p :: rest ∧ decode p = .dispose ∧
      s.phase = .ready ∧ t.phase = .disposed) ∨
    (∃ rest, s.inputs = .reset :: rest ∧ t.phase = .uninitialized)

/-- R164: an error leaves no trace. `S`, `PHASE`, the byte space and what the host has presented are as
before, nothing is saved anywhere (`X`, `KS` and `opOut` are clear, the model's form of it,
notes/assumptions/3.md, 4.md), the response is the kind with no bytes written, and no byte was read: with
any other byte space the outcome is the same. -/
def Obligations.ErrorsLeaveNoTrace : Prop :=
  ∀ (i : Instr) (s t : State) (k : ErrorKind) (n : Word), i.isCommand = true →
    exec i s = .next t → t.rsp = some ⟨.error k, n⟩ →
    n = 0 ∧ t.S = s.S ∧ t.phase = s.phase ∧ t.mem = s.mem ∧ t.inputs = s.inputs ∧
    t.X = zeroWords ∧ t.KS = zeroBlock ∧ t.opOut = .idle ∧
    ∀ m : Memory, exec i { s with mem := m } = .next { t with mem := m }

/-- R165: the stages. An illegal packet is `InvalidArgument` in every phase; then a wrong phase is
`InvalidState` whatever the operands; then a failing operand check is `InvalidArgument`; with none of
these the command executes and answers OK (a partial overlap apart, which has no meaning, R52). FINAL is
judged as the XFORM it is; DISPOSE is never an error. -/
def Obligations.ErrorPriority : Prop :=
  ∀ s : State,
    (∀ p, ∃ t, Answers (exec (.illegal p) s) (.error .invalidArgument) 0 t) ∧
    (∀ key nonce, s.phase ≠ .uninitialized →
      ∃ t, Answers (exec (.init key nonce) s) (.error .invalidState) 0 t) ∧
    (∀ key nonce, s.phase = .uninitialized → initCause hardware key nonce ≠ none →
      ∃ t, Answers (exec (.init key nonce) s) (.error .invalidArgument) 0 t) ∧
    (∀ src o n dst q, s.phase ≠ .ready →
      ∃ t, Answers (exec (.xform src o n dst q) s) (.error .invalidState) 0 t) ∧
    (∀ src o n dst q, s.phase = .ready → xformCause src o n dst q ≠ none →
      ∃ t, Answers (exec (.xform src o n dst q) s) (.error .invalidArgument) 0 t) ∧
    (∀ src o n a, s.phase ≠ .ready →
      ∃ t, Answers (exec (.final src o n a) s) (.error .invalidState) 0 t) ∧
    (∀ src o n a, s.phase = .ready → xformCause src o n ⟨true, a, n⟩ 0 ≠ none →
      ∃ t, Answers (exec (.final src o n a) s) (.error .invalidArgument) 0 t) ∧
    (∃ t, Answers (exec .dispose s) .ok 0 t) ∧
    (∀ key nonce, s.phase = .uninitialized → initCause hardware key nonce = none →
      ∃ t, Answers (exec (.init key nonce) s) .ok 0 t) ∧
    (∀ src o n dst q, s.phase = .ready → xformCause src o n dst q = none →
      partlyOverlap (regionStart src o) (regionStart dst q) n.toNat = false →
      ∃ t, Answers (exec (.xform src o n dst q) s) .ok n t)

/-- R165, D8: with `ERR_ORDER = ArgumentFirst` stages 2 and 3 are swapped (V-ERR7, V-ERR8). -/
def Obligations.ArgumentFirstSwapsTheStages : Prop :=
  ∀ (k128 : Bool) (s : State),
    (∀ key nonce, initCause ⟨k128, .argumentFirst⟩ key nonce ≠ none →
      ∃ t, Answers (initWith ⟨k128, .argumentFirst⟩ key nonce s) (.error .invalidArgument) 0 t) ∧
    (∀ key nonce, initCause ⟨k128, .argumentFirst⟩ key nonce = none → s.phase ≠ .uninitialized →
      ∃ t, Answers (initWith ⟨k128, .argumentFirst⟩ key nonce s) (.error .invalidState) 0 t) ∧
    (∀ src o n dst q, xformCause src o n dst q ≠ none →
      ∃ t, Answers (xformWith ⟨k128, .argumentFirst⟩ src o n dst q s) (.error .invalidArgument) 0 t) ∧
    (∀ src o n dst q, xformCause src o n dst q = none → s.phase ≠ .ready →
      ∃ t, Answers (xformWith ⟨k128, .argumentFirst⟩ src o n dst q s) (.error .invalidState) 0 t)

/-- R152: the lifecycle table, every (phase, command) pair and reset: the response, the next phase and the
effect on `S` (a partial overlap apart, which has no meaning, R52). -/
def Obligations.LifecycleTable : Prop :=
  ∀ s : State,
    (∀ p, ∃ t, Answers (exec (.illegal p) s) (.error .invalidArgument) 0 t ∧
      t.phase = s.phase ∧ t.S = s.S) ∧
    (∀ key nonce, s.phase = .uninitialized → initCause hardware key nonce = none →
      ∃ t, Answers (exec (.init key nonce) s) .ok 0 t ∧ t.phase = .ready ∧
        t.S = initWords key nonce s.mem) ∧
    (∀ key nonce, s.phase = .uninitialized → initCause hardware key nonce ≠ none →
      ∃ t, Answers (exec (.init key nonce) s) (.error .invalidArgument) 0 t ∧
        t.phase = .uninitialized ∧ t.S = s.S) ∧
    (∀ src o n dst q, s.phase = .uninitialized →
      ∃ t, Answers (exec (.xform src o n dst q) s) (.error .invalidState) 0 t ∧
        t.phase = .uninitialized ∧ t.S = s.S) ∧
    (s.phase = .uninitialized →
      ∃ t, Answers (exec .dispose s) .ok 0 t ∧ t.phase = .uninitialized ∧ t.S = s.S) ∧
    (∀ key nonce, s.phase = .ready →
      ∃ t, Answers (exec (.init key nonce) s) (.error .invalidState) 0 t ∧
        t.phase = .ready ∧ t.S = s.S) ∧
    (∀ src o n dst q, s.phase = .ready → xformCause src o n dst q = none →
      partlyOverlap (regionStart src o) (regionStart dst q) n.toNat = false →
      ∃ t, Answers (exec (.xform src o n dst q) s) .ok n t ∧ t.phase = .ready ∧
        counter t.S = (counter s.S + (n.toNat + 63) / 64) % 2 ^ 64) ∧
    (∀ src o n dst q, s.phase = .ready → xformCause src o n dst q ≠ none →
      ∃ t, Answers (exec (.xform src o n dst q) s) (.error .invalidArgument) 0 t ∧
        t.phase = .ready ∧ t.S = s.S) ∧
    (s.phase = .ready →
      ∃ t, Answers (exec .dispose s) .ok 0 t ∧ t.phase = .disposed ∧ ∀ i : Fin 16, t.S[i] = 0) ∧
    (∀ key nonce, s.phase = .disposed →
      ∃ t, Answers (exec (.init key nonce) s) (.error .invalidState) 0 t ∧
        t.phase = .disposed ∧ t.S = s.S) ∧
    (∀ src o n dst q, s.phase = .disposed →
      ∃ t, Answers (exec (.xform src o n dst q) s) (.error .invalidState) 0 t ∧
        t.phase = .disposed ∧ t.S = s.S) ∧
    (s.phase = .disposed →
      ∃ t, Answers (exec .dispose s) .ok 0 t ∧ t.phase = .disposed ∧ ∀ i : Fin 16, t.S[i] = 0) ∧
    (∀ rest, s.inputs = .reset :: rest →
      ∃ t, step s = .next t ∧ t.rsp = none ∧ t.phase = .uninitialized ∧ ∀ i : Fin 16, t.S[i] = 0)

/-- R67, R140: `BYTES_WRITTEN` is `COUNT` for an XFORM (or FINAL) answered OK, and 0 for every other
command and for every error. -/
def Obligations.BytesWritten : Prop :=
  ∀ (i : Instr) (s t : State) (r : Response), i.isCommand = true → exec i s = .next t →
    t.rsp = some r →
    r.bytesWritten =
      match r.status, i with
      | .ok, .xform _ _ count _ _ => count
      | .ok, .final _ _ count _ => count
      | _, _ => 0

/-- R32: `X` and `KS` do not survive the step that made them, and there is no last-status register. No
command depends on what they, or the response port, held before, no BLOCK depends on what `X` and `KS`
held, and each that gives a next state leaves `X` and `KS` cleared (the model's form of it,
notes/assumptions/3.md and 5.md). -/
def Obligations.TransientsDoNotSurvive : Prop :=
  ∀ (i : Instr) (s : State),
    (i.isCommand = true → ∀ (x : Words) (ks : KeyBlock) (o : OpOut) (r : Option Response),
      exec i { s with X := x, KS := ks, opOut := o, rsp := r } = exec i s) ∧
    (∀ (a b : Word) (n : Nat), i = .block a b n → ∀ (x : Words) (ks : KeyBlock) (o : OpOut),
      exec i { s with X := x, KS := ks, opOut := o } = exec i s) ∧
    ((i.isCommand = true ∨ ∃ a b n, i = .block a b n) →
      ∀ t, exec i s = .next t → t.X = zeroWords ∧ t.KS = zeroBlock ∧ t.opOut = .idle)

/-- R48: an instruction other than XFORM, FINAL and BLOCK leaves every byte as it was; no instruction
touches what the host has presented. -/
def Obligations.OnlyTheTransformStores : Prop :=
  ∀ (i : Instr) (s t : State), exec i s = .next t →
    t.inputs = s.inputs ∧ (i.mayStore = false → ∀ a, t.mem.read a = s.mem.read a)

/-! ### The operators, each executed by itself -/

/-- R80: ADD32 completes in every state and puts out the sum modulo `2^32`; nothing else changes.
Where the result stands is the model's choice (notes/assumptions/4.md). -/
def Obligations.Add32Effect : Prop :=
  ∀ (v w : Word) (s : State),
    exec (.add32 v w) s =
      .next { s with opOut := .word (BitVec.ofNat 32 ((v.toNat + w.toNat) % 2 ^ 32)) }

/-- R81: ADD1_32 completes in every state and puts out `v + 1`, which is 0 exactly when `v` is all
ones. Where the result stands is the model's choice (notes/assumptions/4.md). -/
def Obligations.Add1Effect : Prop :=
  ∀ (v : Word) (s : State), ∃ w, exec (.add1 v) s = .next { s with opOut := .word w } ∧
    w.toNat = (v.toNat + 1) % 2 ^ 32 ∧ (w = 0 ↔ v = 0xFFFFFFFF)

/-- R82: for `0 < c < 32` ROTL32 completes and bit `i` of `v` is bit `(i + c) mod 32` of what it
puts out, so that rotating on by `32 - c` gives `v` back; for any other count there is no value and
the model refuses (U2). Where the result stands is the model's choice (notes/assumptions/4.md). The
refusal's name is the model's (notes/assumptions/8.md). -/
def Obligations.Rotl32Effect : Prop :=
  ∀ (v : Word) (c : Nat) (s : State),
    (0 < c → c < 32 → ∃ w, exec (.rotl32 v c) s = .next { s with opOut := .word w } ∧
      (∀ i, i < 32 → w.getLsbD ((i + c) % 32) = v.getLsbD i) ∧
      exec (.rotl32 w (32 - c)) s = .next { s with opOut := .word v }) ∧
    (c = 0 ∨ 32 ≤ c → exec (.rotl32 v c) s = .refused .rotlCount)

/-- R87: XOR32 completes in every state; each bit put out is the exclusive or of the operands' bits.
Where the result stands is the model's choice (notes/assumptions/4.md). -/
def Obligations.Xor32Effect : Prop :=
  ∀ (v w : Word) (s : State), ∃ u, exec (.xor32 v w) s = .next { s with opOut := .word u } ∧
    ∀ i, u.getLsbD i = (v.getLsbD i != w.getLsbD i)

/-- R83: with four bytes at `off`, LE32_LOAD completes and byte `k` of the word it puts out is the
byte at `off + k`; with fewer there is no result. Where the result stands is the model's choice
(notes/assumptions/4.md). The refusal's name is the model's (notes/assumptions/8.md). -/
def Obligations.Le32LoadEffect : Prop :=
  ∀ (buf : List Byte) (off : Nat) (s : State),
    (off + 4 ≤ buf.length → ∃ w, exec (.le32Load buf off) s = .next { s with opOut := .word w } ∧
      ∀ k, k < 4 → buf[off + k]? = some (w.extractLsb' (8 * k) 8)) ∧
    (buf.length < off + 4 → exec (.le32Load buf off) s = .refused .le32Bounds)

/-- R84: with four bytes at `off`, LE32_STORE completes, byte `k` of the word is put at `off + k`,
and every other byte of the buffer is unchanged, and a load at `off` returns the word; with fewer
there is no result. Where the result stands is the model's choice (notes/assumptions/4.md). The
refusal's name is the model's (notes/assumptions/8.md). -/
def Obligations.Le32StoreEffect : Prop :=
  ∀ (value : Word) (buf : List Byte) (off : Nat) (s : State),
    (off + 4 ≤ buf.length → ∃ out, exec (.le32Store value buf off) s =
        .next { s with opOut := .bytes out } ∧ out.length = buf.length ∧
      (∀ k, k < 4 → out[off + k]? = some (value.extractLsb' (8 * k) 8)) ∧
      (∀ j, j < off ∨ off + 4 ≤ j → out[j]? = buf[j]?) ∧
      exec (.le32Load out off) s = .next { s with opOut := .word value }) ∧
    (buf.length < off + 4 → exec (.le32Store value buf off) s = .refused .le32Bounds)

/-! ### The core -/

/-- R110: with distinct indices QRSTEP completes, writes `X[t]` and nothing else; with indices that
are not distinct the model refuses. Holding `X` and `KS` in the state is the model's choice
(notes/assumptions/3.md). So is the refusal (notes/assumptions/9.md). -/
def Obligations.QrstepEffect : Prop :=
  ∀ (t a b : Fin 16) (r : RotAmt) (s : State),
    (t ≠ a → t ≠ b → a ≠ b → ∃ x, exec (.qrstep t a b r) s = .next { s with X := x } ∧
      x[t] = s.X[t] ^^^ rotl32 (s.X[a] + s.X[b])
        (match r with | .r7 => 7 | .r9 => 9 | .r13 => 13 | .r18 => 18) ∧
      ∀ j : Fin 16, j ≠ t → x[j] = s.X[j]) ∧
    (t = a ∨ t = b ∨ a = b → exec (.qrstep t a b r) s = .refused .qrIndices)

/-- R110: a step is its own inverse. Holding `X` and `KS` in the state is the model's choice
(notes/assumptions/3.md). -/
def Obligations.QrstepTwiceRestores : Prop :=
  ∀ (t a b : Fin 16) (r : RotAmt) (s : State), t ≠ a → t ≠ b → a ≠ b →
    ∃ u, exec (.qrstep t a b r) s = .next u ∧ exec (.qrstep t a b r) u = .next s

/-- R111: QUARTERROUND on four distinct indices completes and is the four steps in sequence, with
the rotations 7, 9, 13, 18; every other word of `X`, and every other field, is unchanged. Holding
`X` and `KS` in the state is the model's choice (notes/assumptions/3.md). -/
def Obligations.QuarterroundIsFourSteps : Prop :=
  ∀ (y0 y1 y2 y3 : Fin 16) (s : State), [y0, y1, y2, y3].Nodup →
    ∃ x, exec (.quarterround y0 y1 y2 y3) s = .next { s with X := x } ∧
      execAll [.qrstep y1 y0 y3 .r7, .qrstep y2 y1 y0 .r9, .qrstep y3 y2 y1 .r13,
        .qrstep y0 y3 y2 .r18] s = .next { s with X := x } ∧
      ∀ j : Fin 16, j ∉ [y0, y1, y2, y3] → x[j] = s.X[j]

/-- R112: COLUMNROUND completes in every state and is the sixteen steps of the table, in its order;
only `X` is written. Holding `X` and `KS` in the state is the model's choice
(notes/assumptions/3.md). -/
def Obligations.ColumnroundIsItsTable : Prop :=
  ∀ s : State, ∃ x, exec .columnround s = .next { s with X := x } ∧
    execAll [.qrstep 4 0 12 .r7, .qrstep 8 4 0 .r9, .qrstep 12 8 4 .r13, .qrstep 0 12 8 .r18,
      .qrstep 9 5 1 .r7, .qrstep 13 9 5 .r9, .qrstep 1 13 9 .r13, .qrstep 5 1 13 .r18,
      .qrstep 14 10 6 .r7, .qrstep 2 14 10 .r9, .qrstep 6 2 14 .r13, .qrstep 10 6 2 .r18,
      .qrstep 3 15 11 .r7, .qrstep 7 3 15 .r9, .qrstep 11 7 3 .r13, .qrstep 15 11 7 .r18] s =
      .next { s with X := x }

/-- R113: ROWROUND completes in every state and is the sixteen steps of the table, in its order;
only `X` is written. Holding `X` and `KS` in the state is the model's choice
(notes/assumptions/3.md). -/
def Obligations.RowroundIsItsTable : Prop :=
  ∀ s : State, ∃ x, exec .rowround s = .next { s with X := x } ∧
    execAll [.qrstep 1 0 3 .r7, .qrstep 2 1 0 .r9, .qrstep 3 2 1 .r13, .qrstep 0 3 2 .r18,
      .qrstep 6 5 4 .r7, .qrstep 7 6 5 .r9, .qrstep 4 7 6 .r13, .qrstep 5 4 7 .r18,
      .qrstep 11 10 9 .r7, .qrstep 8 11 10 .r9, .qrstep 9 8 11 .r13, .qrstep 10 9 8 .r18,
      .qrstep 12 15 14 .r7, .qrstep 13 12 15 .r9, .qrstep 14 13 12 .r13, .qrstep 15 14 13 .r18] s =
      .next { s with X := x }

/-- R113: the row round is the column round on the transposed matrix. -/
def Obligations.RowroundIsTransposedColumnround : Prop :=
  ∀ x : Words, rowRound x = transposeWords (columnRound (transposeWords x))

/-- R114: DOUBLEROUND completes in every state and is COLUMNROUND, then ROWROUND; only `X` is
written. Holding `X` and `KS` in the state is the model's choice (notes/assumptions/3.md). -/
def Obligations.DoubleroundIsColumnThenRow : Prop :=
  ∀ s : State, ∃ x, exec .doubleround s = .next { s with X := x } ∧
    execAll [.columnround, .rowround] s = .next { s with X := x }

/-- R115: the rounds alone are a bijection on sixteen-word states. -/
def Obligations.RoundsBijective : Prop := Function.Bijective coreRounds

/-- R115, R116: PERMUTE completes in every state. Its working buffer is ten DOUBLEROUNDs of a copy
of `S`; byte `4i + k` of the keystream block is byte `k` of that buffer's word `i` plus `S[i]`; it
writes `X` and `KS` and nothing else, so `S`, `PHASE` and the byte space are unchanged. Holding `X`
and `KS` in the state is the model's choice (notes/assumptions/3.md). -/
def Obligations.PermuteEffect : Prop :=
  ∀ s : State, ∃ x ks, exec .permute s = .next { s with X := x, KS := ks } ∧
    execAll (List.replicate 10 .doubleround) { s with X := s.S } = .next { s with X := x } ∧
    ∀ (i : Fin 16) (k : Fin 4),
      ks[4 * i.val + k.val] = (x[i] + s.S[i]).extractLsb' (8 * k.val) 8

/-! ### State initialisation -/

/-- R97: INIT in `Uninitialized` with operands that pass every check of R96 completes: the sixteen words,
`Ready`, and the response `OK(0)`; the byte space is unchanged. Byte `k` of a word is the key or nonce
byte little-endian order puts there. -/
def Obligations.InitEffect : Prop :=
  ∀ (key nonce : Desc) (s : State), s.phase = .uninitialized → key.valid = true →
    nonce.valid = true → key.len.toNat = 32 → 8 ≤ nonce.len.toNat →
    key.base.toNat + key.len.toNat ≤ 2 ^ 32 → nonce.base.toNat + nonce.len.toNat ≤ 2 ^ 32 →
    ∃ t, Answers (exec (.init key nonce) s) .ok 0 t ∧ t.phase = .ready ∧ t.mem = s.mem ∧
      t.inputs = s.inputs ∧
      t.S[0] = 0x61707865 ∧ t.S[5] = 0x3320646E ∧ t.S[10] = 0x79622D32 ∧ t.S[15] = 0x6B206574 ∧
      t.S[8] = 0 ∧ t.S[9] = 0 ∧
      (∀ j k : Fin 4, t.S[1 + j.val].extractLsb' (8 * k.val) 8 =
        s.mem.read (key.base.toNat + 4 * j.val + k.val)) ∧
      (∀ j k : Fin 4, t.S[11 + j.val].extractLsb' (8 * k.val) 8 =
        s.mem.read (key.base.toNat + 16 + 4 * j.val + k.val)) ∧
      (∀ (j : Fin 2) (k : Fin 4), t.S[6 + j.val].extractLsb' (8 * k.val) 8 =
        s.mem.read (nonce.base.toNat + 4 * j.val + k.val))

/-- R96, R100, R102: INIT in `Uninitialized` with any failing check is `InvalidArgument`, in another phase
`InvalidState`, changes neither `S`, `PHASE` nor the byte space, and reads no byte: with any other byte
space the outcome is the same. -/
def Obligations.InitRejects : Prop :=
  ∀ (key nonce : Desc) (s : State),
    (s.phase = .uninitialized →
      (key.valid = false ∨ nonce.valid = false ∨ key.len.toNat ≠ 32 ∨ nonce.len.toNat < 8 ∨
        2 ^ 32 < key.base.toNat + key.len.toNat ∨ 2 ^ 32 < nonce.base.toNat + nonce.len.toNat) →
      ∃ t, Answers (exec (.init key nonce) s) (.error .invalidArgument) 0 t ∧
        t.S = s.S ∧ t.phase = s.phase ∧ t.mem = s.mem ∧
        ∀ m : Memory, exec (.init key nonce) { s with mem := m } = .next { t with mem := m }) ∧
    (s.phase ≠ .uninitialized →
      ∃ t, Answers (exec (.init key nonce) s) (.error .invalidState) 0 t ∧
        t.S = s.S ∧ t.phase = s.phase ∧ t.mem = s.mem ∧
        ∀ m : Memory, exec (.init key nonce) { s with mem := m } = .next { t with mem := m })

/-- R98, R101: INIT sees 32 key bytes and 8 nonce bytes, and no other byte of the byte space. -/
def Obligations.InitReadsOnlyKeyAndNonce : Prop :=
  ∀ (key nonce : Desc) (s t : State) (m : Memory), exec (.init key nonce) s = .next t →
    (∀ k, k < 32 → m.read (key.base.toNat + k) = s.mem.read (key.base.toNat + k)) →
    (∀ k, k < 8 → m.read (nonce.base.toNat + k) = s.mem.read (nonce.base.toNat + k)) →
    exec (.init key nonce) { s with mem := m } = .next { t with mem := m }

/-- R99, D12: with `KEY128_ENABLE = 1` a 16-byte key is accepted: TAU, and the key's four words twice. In
this hardware (`KEY128_ENABLE = 0`) the same operands are `InvalidArgument`. -/
def Obligations.Key128Option : Prop :=
  ∀ (o : ErrOrder) (key nonce : Desc) (s : State), s.phase = .uninitialized → key.valid = true →
    nonce.valid = true → key.len.toNat = 16 → 8 ≤ nonce.len.toNat →
    key.base.toNat + key.len.toNat ≤ 2 ^ 32 → nonce.base.toNat + nonce.len.toNat ≤ 2 ^ 32 →
    (∃ t, Answers (initWith ⟨true, o⟩ key nonce s) .ok 0 t ∧ t.phase = .ready ∧ t.mem = s.mem ∧
      t.S[0] = 0x61707865 ∧ t.S[5] = 0x3120646E ∧ t.S[10] = 0x79622D36 ∧ t.S[15] = 0x6B206574 ∧
      t.S[8] = 0 ∧ t.S[9] = 0 ∧
      (∀ j k : Fin 4,
        t.S[1 + j.val].extractLsb' (8 * k.val) 8 =
          s.mem.read (key.base.toNat + 4 * j.val + k.val) ∧
        t.S[11 + j.val].extractLsb' (8 * k.val) 8 =
          s.mem.read (key.base.toNat + 4 * j.val + k.val)) ∧
      (∀ (j : Fin 2) (k : Fin 4), t.S[6 + j.val].extractLsb' (8 * k.val) 8 =
        s.mem.read (nonce.base.toNat + 4 * j.val + k.val))) ∧
    (∃ t, Answers (exec (.init key nonce) s) (.error .invalidArgument) 0 t)

/-! ### The stream transform -/

/-- R133: CTR_INC completes in every state: the 64-bit counter goes up by one modulo `2^64`, silently; the
high word changes only when the low word wraps; nothing else changes. -/
def Obligations.CtrIncEffect : Prop :=
  ∀ s : State, ∃ S', exec .ctrInc s = .next { s with S := S' } ∧
    counter S' = (counter s.S + 1) % 2 ^ 64 ∧
    S'[8] = s.S[8] + 1 ∧ (s.S[8] + 1 ≠ 0 → S'[9] = s.S[9]) ∧ (s.S[8] + 1 = 0 → S'[9] = s.S[9] + 1) ∧
    ∀ i : Fin 16, i ≠ 8 → i ≠ 9 → S'[i] = s.S[i]

/-- R132: BLOCK with `1 ≤ n ≤ 64` inside the byte space, its regions disjoint or the same, completes: each
output byte is the input byte XOR the keystream byte of the counter before the increment; every other
byte is unchanged; the counter advances once; the phase and the response port are unchanged. -/
def Obligations.BlockEffect : Prop :=
  ∀ (a b : Word) (n : Nat) (s : State), Memory.wf s.mem → 1 ≤ n → n ≤ 64 → a.toNat + n ≤ 2 ^ 32 →
    b.toNat + n ≤ 2 ^ 32 → (a = b ∨ a.toNat + n ≤ b.toNat ∨ b.toNat + n ≤ a.toNat) →
    ∃ t, exec (.block a b n) s = .next t ∧
      (∀ j, (h : j < 64) → j < n →
        t.mem.read (b.toNat + j) = s.mem.read (a.toNat + j) ^^^ (keystream s.S)[j]) ∧
      (∀ x, x < b.toNat ∨ b.toNat + n ≤ x → t.mem.read x = s.mem.read x) ∧
      t.S = incCounter s.S ∧ t.phase = s.phase ∧ t.rsp = s.rsp ∧ t.inputs = s.inputs

/-- R132, R41, R52: where BLOCK stops: a byte count outside 1..64, a region past the top of the byte
space, and regions that partly overlap. The names and their order are the model's
(notes/assumptions/7.md). -/
def Obligations.BlockStops : Prop :=
  ∀ (a b : Word) (n : Nat) (s : State),
    (n = 0 ∨ 64 < n → exec (.block a b n) s = .refused .blockCount) ∧
    (1 ≤ n → n ≤ 64 → 2 ^ 32 < a.toNat + n ∨ 2 ^ 32 < b.toNat + n →
      exec (.block a b n) s = .fault .noSuchAddress) ∧
    (1 ≤ n → n ≤ 64 → a.toNat + n ≤ 2 ^ 32 → b.toNat + n ≤ 2 ^ 32 → a ≠ b →
      a.toNat < b.toNat + n → b.toNat < a.toNat + n →
      exec (.block a b n) s = .refused .partialOverlap)

/-- R131, R132, R140, R143: XFORM in `Ready` with operands that pass every check of R134, its regions
disjoint or the same (or empty), completes. Output byte `k` is input byte `k` XOR byte `k mod 64` of the
keystream block of the counter value `CTR + k / 64`; every other byte is unchanged; the counter grows by
`ceil(COUNT / 64)` modulo `2^64`; every other word of `S` and the phase are unchanged; the response is
`OK(COUNT)`. -/
def Obligations.XformEffect : Prop :=
  ∀ (src : Desc) (inOff count : Word) (dst : Desc) (outOff : Word) (s : State),
    Memory.wf s.mem → s.phase = .ready → src.valid = true → dst.valid = true →
    src.base.toNat + src.len.toNat ≤ 2 ^ 32 → dst.base.toNat + dst.len.toNat ≤ 2 ^ 32 →
    inOff.toNat + count.toNat ≤ src.len.toNat → outOff.toNat + count.toNat ≤ dst.len.toNat →
    (regionStart src inOff = regionStart dst outOff ∨
      regionStart src inOff + count.toNat ≤ regionStart dst outOff ∨
      regionStart dst outOff + count.toNat ≤ regionStart src inOff ∨ count = 0) →
    ∃ t, Answers (exec (.xform src inOff count dst outOff) s) .ok count t ∧
      (∀ k, k < count.toNat → t.mem.read (regionStart dst outOff + k) =
        s.mem.read (regionStart src inOff + k) ^^^ streamByte s.S k) ∧
      (∀ x, x < regionStart dst outOff ∨ regionStart dst outOff + count.toNat ≤ x →
        t.mem.read x = s.mem.read x) ∧
      counter t.S = (counter s.S + (count.toNat + 63) / 64) % 2 ^ 64 ∧
      (∀ i : Fin 16, i ≠ 8 → i ≠ 9 → t.S[i] = s.S[i]) ∧
      t.phase = s.phase ∧ t.inputs = s.inputs

/-- R134, R142: XFORM in `Ready` with any failing check is `InvalidArgument`, whatever `COUNT` is, in
another phase `InvalidState` whatever the operands, changes neither `S`, `PHASE` nor the byte space, and
reads no byte: with any other byte space the outcome is the same. -/
def Obligations.XformRejects : Prop :=
  ∀ (src : Desc) (inOff count : Word) (dst : Desc) (outOff : Word) (s : State),
    (s.phase = .ready →
      (src.valid = false ∨ dst.valid = false ∨ 2 ^ 32 < src.base.toNat + src.len.toNat ∨
        2 ^ 32 < dst.base.toNat + dst.len.toNat ∨ src.len.toNat < inOff.toNat + count.toNat ∨
        dst.len.toNat < outOff.toNat + count.toNat) →
      ∃ t, Answers (exec (.xform src inOff count dst outOff) s) (.error .invalidArgument) 0 t ∧
        t.S = s.S ∧ t.phase = s.phase ∧ t.mem = s.mem ∧
        ∀ m : Memory, exec (.xform src inOff count dst outOff) { s with mem := m } = .next { t with mem := m }) ∧
    (s.phase ≠ .ready →
      ∃ t, Answers (exec (.xform src inOff count dst outOff) s) (.error .invalidState) 0 t ∧
        t.S = s.S ∧ t.phase = s.phase ∧ t.mem = s.mem ∧
        ∀ m : Memory, exec (.xform src inOff count dst outOff) { s with mem := m } = .next { t with mem := m })

/-- R52 case (c), U1: an XFORM that passes every check and whose regions partly overlap has no meaning: the
model refuses it, with no response and no next state. -/
def Obligations.PartialOverlapIsRefused : Prop :=
  ∀ (src : Desc) (inOff count : Word) (dst : Desc) (outOff : Word) (s : State),
    s.phase = .ready → xformCause src inOff count dst outOff = none →
    regionStart src inOff ≠ regionStart dst outOff →
    regionStart src inOff < regionStart dst outOff + count.toNat →
    regionStart dst outOff < regionStart src inOff + count.toNat →
    exec (.xform src inOff count dst outOff) s = .refused .partialOverlap

/-- R135: with `COUNT = 0` an XFORM that passes the phase check and the operand checks answers `OK(0)`, with
no byte and no word changed, the counter included. -/
def Obligations.XformOfZeroBytes : Prop :=
  ∀ (src : Desc) (inOff : Word) (dst : Desc) (outOff : Word) (s : State), s.phase = .ready →
    xformCause src inOff 0 dst outOff = none →
    ∃ t, Answers (exec (.xform src inOff 0 dst outOff) s) .ok 0 t ∧ t.S = s.S ∧
      t.mem = s.mem ∧ t.phase = s.phase ∧
      ∀ m : Memory, exec (.xform src inOff 0 dst outOff) { s with mem := m } =
        .next { t with mem := m }

/-- R137: continuation. When the first of two XFORMs transforms a multiple of 64 bytes, the two have the
effect of one on the whole: the same byte space and the same cipher state. -/
def Obligations.SplitAtMultipleOf64 : Prop :=
  ∀ (src : Desc) (inOff a b : Word) (dst : Desc) (outOff : Word) (s : State), s.phase = .ready →
    64 ∣ a.toNat → a.toNat + b.toNat < 2 ^ 32 → xformCause src inOff (a + b) dst outOff = none →
    partlyOverlap (regionStart src inOff) (regionStart dst outOff) (a.toNat + b.toNat) = false →
    ∃ t u v, Answers (exec (.xform src inOff a dst outOff) s) .ok a t ∧
      Answers (exec (.xform src (inOff + a) b dst (outOff + a)) t) .ok b u ∧
      Answers (exec (.xform src inOff (a + b) dst outOff) s) .ok (a + b) v ∧
      u.mem = v.mem ∧ u.S = v.S

/-- R139: the transform is its own inverse. Transforming the output again, from the same cipher state,
gives the input back, wherever the second output goes; `dst = src` and `back = dst` are the in-place
case. -/
def Obligations.TransformTwiceRestores : Prop :=
  ∀ (src : Desc) (o : Word) (dst : Desc) (q : Word) (back : Desc) (r n : Word) (s : State),
    Memory.wf s.mem → s.phase = .ready →
    xformCause src o n dst q = none → xformCause dst q n back r = none →
    partlyOverlap (regionStart src o) (regionStart dst q) n.toNat = false →
    partlyOverlap (regionStart dst q) (regionStart back r) n.toNat = false →
    ∃ t u, Answers (exec (.xform src o n dst q) s) .ok n t ∧
      Answers (exec (.xform dst q n back r) { t with S := s.S }) .ok n u ∧
      ∀ k, k < n.toNat →
        u.mem.read (regionStart back r + k) = s.mem.read (regionStart src o + k)

/-- R73, R138: FINAL has exactly the effects, the checks and the response of the XFORM into the `n` bytes
set aside at `a`, and the same packet. -/
def Obligations.FinalIsXform : Prop :=
  ∀ (src : Desc) (inOff n a : Word) (s : State),
    exec (.final src inOff n a) s = exec (.xform src inOff n ⟨true, a, n⟩ 0) s ∧
    encode (.final src inOff n a) = encode (.xform src inOff n ⟨true, a, n⟩ 0)

/-- R73, R138: FINAL in `Ready`, its input region in bounds and its output at `a` inside the byte space,
the two disjoint or the same (or empty), completes: `OK(n)`, output byte `k` at `a + k`, nothing else
written, the phase still `Ready` and the counter advanced, so that a later XFORM continues. -/
def Obligations.FinalEffect : Prop :=
  ∀ (src : Desc) (inOff n a : Word) (s : State), Memory.wf s.mem → s.phase = .ready →
    src.valid = true → src.base.toNat + src.len.toNat ≤ 2 ^ 32 → inOff.toNat + n.toNat ≤ src.len.toNat →
    a.toNat + n.toNat ≤ 2 ^ 32 →
    (regionStart src inOff = a.toNat ∨ regionStart src inOff + n.toNat ≤ a.toNat ∨
      a.toNat + n.toNat ≤ regionStart src inOff ∨ n = 0) →
    ∃ t, Answers (exec (.final src inOff n a) s) .ok n t ∧
      (∀ k, k < n.toNat → t.mem.read (a.toNat + k) =
        s.mem.read (regionStart src inOff + k) ^^^ streamByte s.S k) ∧
      (∀ x, x < a.toNat ∨ a.toNat + n.toNat ≤ x → t.mem.read x = s.mem.read x) ∧
      counter t.S = (counter s.S + (n.toNat + 63) / 64) % 2 ^ 64 ∧
      (∀ i : Fin 16, i ≠ 8 → i ≠ 9 → t.S[i] = s.S[i]) ∧ t.phase = .ready ∧ t.inputs = s.inputs

/-! ### Disposal and illegal packets -/

/-- R151: DISPOSE, by phase. In `Ready` and `Disposed` all sixteen words become 0 and the phase `Disposed`;
in `Uninitialized` nothing changes; always `OK(0)`, the byte space untouched. R153: any number of
DISPOSEs leave the state the first one left. -/
def Obligations.DisposeEffect : Prop :=
  ∀ s : State, ∃ t, Answers (exec .dispose s) .ok 0 t ∧ t.mem = s.mem ∧ t.inputs = s.inputs ∧
    (s.phase = .ready ∨ s.phase = .disposed → t.phase = .disposed ∧ ∀ i : Fin 16, t.S[i] = 0) ∧
    (s.phase = .uninitialized → t.phase = .uninitialized ∧ t.S = s.S) ∧
    ∀ n : Nat, execAll (List.replicate (n + 1) .dispose) s = .next t

/-- R151: ZEROIZE completes in every state, makes all sixteen words 0 and changes nothing else. -/
def Obligations.ZeroizeEffect : Prop :=
  ∀ s : State, ∃ S', exec .zeroize s = .next { s with S := S' } ∧ ∀ i : Fin 16, S'[i] = 0

/-- R70: a packet whose `OP` is reserved, or with a reserved header bit set, or a DISPOSE with a `VALID`
bit, is answered `InvalidArgument` with no bytes written, in every phase; nothing changes and no byte is
read. Every such packet decodes to ILLEGAL and every other packet to one of the three commands. -/
def Obligations.IllegalPackets : Prop :=
  ∀ (s : State) (p : Packet) (rest : List HostInput), s.inputs = .packet p :: rest →
    (p[0].toNat % 8 = 0 ∨ 4 ≤ p[0].toNat % 8 ∨ p[0].toNat / 8 % 32 ≠ 0 ∨ 1024 ≤ p[0].toNat ∨
        (p[0].toNat % 8 = 3 ∧ p[0].toNat / 256 % 4 ≠ 0) →
      decode p = .illegal p ∧
      ∃ t, Answers (step s) (.error .invalidArgument) 0 t ∧ t.S = s.S ∧ t.phase = s.phase ∧
        t.mem = s.mem ∧ t.inputs = rest ∧
        ∀ m : Memory, step { s with mem := m } = .next { t with mem := m }) ∧
    (¬(p[0].toNat % 8 = 0 ∨ 4 ≤ p[0].toNat % 8 ∨ p[0].toNat / 8 % 32 ≠ 0 ∨ 1024 ≤ p[0].toNat ∨
        (p[0].toNat % 8 = 3 ∧ p[0].toNat / 256 % 4 ≠ 0)) →
      (∃ key nonce, decode p = .init key nonce) ∨
      (∃ src o n dst q, decode p = .xform src o n dst q) ∨ decode p = .dispose)

/-- R70, R165 stage 1: the answer to an illegal packet, as an instruction, completes in every state: the
response, and otherwise the state as it was. -/
def Obligations.IllegalEffect : Prop :=
  ∀ (p : Packet) (s : State), ∃ t, Answers (exec (.illegal p) s) (.error .invalidArgument) 0 t ∧
    t.S = s.S ∧ t.phase = s.phase ∧ t.mem = s.mem ∧ t.inputs = s.inputs
end

