-- ==== Sys2Proof/Laws/State.lean ====
section
/-! SUPPORT. One lemma per field per update of the state, so that no later proof unfolds a record
update; and the fields after `clearTransients`. -/

namespace Sys2Proof.Machine

variable (s : State)

@[simp] theorem State.setS_S (v : Words) : (s.setS v).S = v := rfl
@[simp] theorem State.setS_phase (v : Words) : (s.setS v).phase = s.phase := rfl
@[simp] theorem State.setS_X (v : Words) : (s.setS v).X = s.X := rfl
@[simp] theorem State.setS_KS (v : Words) : (s.setS v).KS = s.KS := rfl
@[simp] theorem State.setS_opOut (v : Words) : (s.setS v).opOut = s.opOut := rfl
@[simp] theorem State.setS_mem (v : Words) : (s.setS v).mem = s.mem := rfl
@[simp] theorem State.setS_rsp (v : Words) : (s.setS v).rsp = s.rsp := rfl
@[simp] theorem State.setS_inputs (v : Words) : (s.setS v).inputs = s.inputs := rfl

@[simp] theorem State.setPhase_S (v : Phase) : (s.setPhase v).S = s.S := rfl
@[simp] theorem State.setPhase_phase (v : Phase) : (s.setPhase v).phase = v := rfl
@[simp] theorem State.setPhase_X (v : Phase) : (s.setPhase v).X = s.X := rfl
@[simp] theorem State.setPhase_KS (v : Phase) : (s.setPhase v).KS = s.KS := rfl
@[simp] theorem State.setPhase_opOut (v : Phase) : (s.setPhase v).opOut = s.opOut := rfl
@[simp] theorem State.setPhase_mem (v : Phase) : (s.setPhase v).mem = s.mem := rfl
@[simp] theorem State.setPhase_rsp (v : Phase) : (s.setPhase v).rsp = s.rsp := rfl
@[simp] theorem State.setPhase_inputs (v : Phase) : (s.setPhase v).inputs = s.inputs := rfl

@[simp] theorem State.setX_S (v : Words) : (s.setX v).S = s.S := rfl
@[simp] theorem State.setX_phase (v : Words) : (s.setX v).phase = s.phase := rfl
@[simp] theorem State.setX_X (v : Words) : (s.setX v).X = v := rfl
@[simp] theorem State.setX_KS (v : Words) : (s.setX v).KS = s.KS := rfl
@[simp] theorem State.setX_opOut (v : Words) : (s.setX v).opOut = s.opOut := rfl
@[simp] theorem State.setX_mem (v : Words) : (s.setX v).mem = s.mem := rfl
@[simp] theorem State.setX_rsp (v : Words) : (s.setX v).rsp = s.rsp := rfl
@[simp] theorem State.setX_inputs (v : Words) : (s.setX v).inputs = s.inputs := rfl

@[simp] theorem State.setKS_S (v : KeyBlock) : (s.setKS v).S = s.S := rfl
@[simp] theorem State.setKS_phase (v : KeyBlock) : (s.setKS v).phase = s.phase := rfl
@[simp] theorem State.setKS_X (v : KeyBlock) : (s.setKS v).X = s.X := rfl
@[simp] theorem State.setKS_KS (v : KeyBlock) : (s.setKS v).KS = v := rfl
@[simp] theorem State.setKS_opOut (v : KeyBlock) : (s.setKS v).opOut = s.opOut := rfl
@[simp] theorem State.setKS_mem (v : KeyBlock) : (s.setKS v).mem = s.mem := rfl
@[simp] theorem State.setKS_rsp (v : KeyBlock) : (s.setKS v).rsp = s.rsp := rfl
@[simp] theorem State.setKS_inputs (v : KeyBlock) : (s.setKS v).inputs = s.inputs := rfl

@[simp] theorem State.setOpOut_S (v : OpOut) : (s.setOpOut v).S = s.S := rfl
@[simp] theorem State.setOpOut_phase (v : OpOut) : (s.setOpOut v).phase = s.phase := rfl
@[simp] theorem State.setOpOut_X (v : OpOut) : (s.setOpOut v).X = s.X := rfl
@[simp] theorem State.setOpOut_KS (v : OpOut) : (s.setOpOut v).KS = s.KS := rfl
@[simp] theorem State.setOpOut_opOut (v : OpOut) : (s.setOpOut v).opOut = v := rfl
@[simp] theorem State.setOpOut_mem (v : OpOut) : (s.setOpOut v).mem = s.mem := rfl
@[simp] theorem State.setOpOut_rsp (v : OpOut) : (s.setOpOut v).rsp = s.rsp := rfl
@[simp] theorem State.setOpOut_inputs (v : OpOut) : (s.setOpOut v).inputs = s.inputs := rfl

@[simp] theorem State.setMem_S (v : Memory) : (s.setMem v).S = s.S := rfl
@[simp] theorem State.setMem_phase (v : Memory) : (s.setMem v).phase = s.phase := rfl
@[simp] theorem State.setMem_X (v : Memory) : (s.setMem v).X = s.X := rfl
@[simp] theorem State.setMem_KS (v : Memory) : (s.setMem v).KS = s.KS := rfl
@[simp] theorem State.setMem_opOut (v : Memory) : (s.setMem v).opOut = s.opOut := rfl
@[simp] theorem State.setMem_mem (v : Memory) : (s.setMem v).mem = v := rfl
@[simp] theorem State.setMem_rsp (v : Memory) : (s.setMem v).rsp = s.rsp := rfl
@[simp] theorem State.setMem_inputs (v : Memory) : (s.setMem v).inputs = s.inputs := rfl

@[simp] theorem State.setRsp_S (v : Option Response) : (s.setRsp v).S = s.S := rfl
@[simp] theorem State.setRsp_phase (v : Option Response) : (s.setRsp v).phase = s.phase := rfl
@[simp] theorem State.setRsp_X (v : Option Response) : (s.setRsp v).X = s.X := rfl
@[simp] theorem State.setRsp_KS (v : Option Response) : (s.setRsp v).KS = s.KS := rfl
@[simp] theorem State.setRsp_opOut (v : Option Response) : (s.setRsp v).opOut = s.opOut := rfl
@[simp] theorem State.setRsp_mem (v : Option Response) : (s.setRsp v).mem = s.mem := rfl
@[simp] theorem State.setRsp_rsp (v : Option Response) : (s.setRsp v).rsp = v := rfl
@[simp] theorem State.setRsp_inputs (v : Option Response) : (s.setRsp v).inputs = s.inputs := rfl

@[simp] theorem State.setInputs_S (v : List HostInput) : (s.setInputs v).S = s.S := rfl
@[simp] theorem State.setInputs_phase (v : List HostInput) : (s.setInputs v).phase = s.phase := rfl
@[simp] theorem State.setInputs_X (v : List HostInput) : (s.setInputs v).X = s.X := rfl
@[simp] theorem State.setInputs_KS (v : List HostInput) : (s.setInputs v).KS = s.KS := rfl
@[simp] theorem State.setInputs_opOut (v : List HostInput) : (s.setInputs v).opOut = s.opOut := rfl
@[simp] theorem State.setInputs_mem (v : List HostInput) : (s.setInputs v).mem = s.mem := rfl
@[simp] theorem State.setInputs_rsp (v : List HostInput) : (s.setInputs v).rsp = s.rsp := rfl
@[simp] theorem State.setInputs_inputs (v : List HostInput) : (s.setInputs v).inputs = v := rfl

@[simp] theorem clearTransients_S : (clearTransients s).S = s.S := rfl
@[simp] theorem clearTransients_phase : (clearTransients s).phase = s.phase := rfl
@[simp] theorem clearTransients_X : (clearTransients s).X = zeroWords := rfl
@[simp] theorem clearTransients_KS : (clearTransients s).KS = zeroBlock := rfl
@[simp] theorem clearTransients_opOut : (clearTransients s).opOut = .idle := rfl
@[simp] theorem clearTransients_mem : (clearTransients s).mem = s.mem := rfl
@[simp] theorem clearTransients_rsp : (clearTransients s).rsp = s.rsp := rfl
@[simp] theorem clearTransients_inputs : (clearTransients s).inputs = s.inputs := rfl

end Sys2Proof.Machine
end

