-- ==== Sys2Proof/Laws/Commands.lean ====
section
/-! SUPPORT. What a command can do, said once: which error it reports, and the outcomes of each command
and of a step. Provers cite these instead of unfolding the meanings. -/

namespace Sys2Proof.Machine

/-! ### Which error (R165) -/

@[simp] theorem firstError_stateFirst_wrong (c : Option ArgCause) :
    firstError .stateFirst false c = some .invalidState := rfl

@[simp] theorem firstError_stateFirst_some (c : ArgCause) :
    firstError .stateFirst true (some c) = some .invalidArgument := rfl

@[simp] theorem firstError_none (o : ErrOrder) : firstError o true none = none := by
  cases o <;> rfl

@[simp] theorem firstError_argumentFirst_some (ok : Bool) (c : ArgCause) :
    firstError .argumentFirst ok (some c) = some .invalidArgument := rfl

@[simp] theorem firstError_argumentFirst_wrong :
    firstError .argumentFirst false none = some .invalidState := rfl

/-- R165: a legal command either reports an error and is `raise`, or runs its effect with its phase
right and its operands good. -/
theorem runCommand_cases (cfg : Config) (ok : Bool) (c : Option ArgCause) (f : State → Result)
    (s : State) :
    (∃ k, firstError cfg.errOrder ok c = some k ∧ runCommand cfg ok c f s = raise k s) ∨
    (ok = true ∧ c = none ∧ runCommand cfg ok c f s = f s) := by
  unfold runCommand
  cases h : firstError cfg.errOrder ok c with
  | some k => exact .inl ⟨k, rfl, rfl⟩
  | none =>
    refine .inr ?_
    cases ho : cfg.errOrder <;> cases ok <;> cases c <;> simp_all [firstError]

/-! ### Operand checks as inequalities (R96, R134) -/

theorem ite_some_eq_none {α : Type} {c : Prop} [Decidable c] {a : α} {t : Option α} :
    (if c then some a else t) = none ↔ ¬c ∧ t = none := by
  by_cases h : c <;> simp [h]

theorem descFits_iff (d : Desc) : descFits d = true ↔ d.base.toNat + d.len.toNat ≤ 2 ^ 32 :=
  decide_eq_true_iff

theorem regionFits_iff (d : Desc) (off count : Word) :
    regionFits d off count = true ↔ off.toNat + count.toNat ≤ d.len.toNat :=
  decide_eq_true_iff

theorem keyLenOk_iff (cfg : Config) (len : Word) :
    keyLenOk cfg len = true ↔ len.toNat = 32 ∨ (cfg.key128Enable = true ∧ len.toNat = 16) := by
  unfold keyLenOk
  rw [Bool.or_eq_true, Bool.and_eq_true, decide_eq_true_iff, decide_eq_true_iff]
  rfl

theorem xformCause_eq_none_iff (src : Desc) (inOff count : Word) (dst : Desc) (outOff : Word) :
    xformCause src inOff count dst outOff = none ↔
      src.valid = true ∧ dst.valid = true ∧ src.base.toNat + src.len.toNat ≤ 2 ^ 32 ∧
      dst.base.toNat + dst.len.toNat ≤ 2 ^ 32 ∧ inOff.toNat + count.toNat ≤ src.len.toNat ∧
      outOff.toNat + count.toNat ≤ dst.len.toNat := by
  simp only [xformCause, ite_some_eq_none, Bool.not_eq_true', Bool.not_eq_false, descFits_iff,
    regionFits_iff, and_true]

theorem initCause_hardware_eq_none_iff (key nonce : Desc) :
    initCause hardware key nonce = none ↔
      key.valid = true ∧ nonce.valid = true ∧ key.len.toNat = 32 ∧ 8 ≤ nonce.len.toNat ∧
      key.base.toNat + key.len.toNat ≤ 2 ^ 32 ∧ nonce.base.toNat + nonce.len.toNat ≤ 2 ^ 32 := by
  simp only [initCause, ite_some_eq_none, Bool.not_eq_true', Bool.not_eq_false, descFits_iff,
    keyLenOk_iff, hardware, nonceBytes, not_lt, and_true, Bool.false_eq_true, false_and, or_false]

theorem initCause_key128_eq_none_iff (o : ErrOrder) (key nonce : Desc) :
    initCause ⟨true, o⟩ key nonce = none ↔
      key.valid = true ∧ nonce.valid = true ∧ (key.len.toNat = 32 ∨ key.len.toNat = 16) ∧
      8 ≤ nonce.len.toNat ∧
      key.base.toNat + key.len.toNat ≤ 2 ^ 32 ∧ nonce.base.toNat + nonce.len.toNat ≤ 2 ^ 32 := by
  simp only [initCause, ite_some_eq_none, Bool.not_eq_true', Bool.not_eq_false, descFits_iff,
    keyLenOk_iff, nonceBytes, not_lt, and_true, true_and]

theorem partlyOverlap_eq_false_iff (a b n : Nat) :
    partlyOverlap a b n = false ↔ a = b ∨ b + n ≤ a ∨ a + n ≤ b := by
  simp only [partlyOverlap, Bool.and_eq_false_iff, decide_eq_false_iff_not, not_not, not_lt]

/-! ### The commands -/

/-- R95: the outcomes of INIT. -/
theorem execInit_cases (key nonce : Desc) (s : State) :
    (∃ k, execInit key nonce s = raise k s) ∨
    (s.phase = .uninitialized ∧ initCause hardware key nonce = none ∧
      execInit key nonce s = respond 0 ((s.setS (initWords key nonce s.mem)).setPhase .ready)) := by
  rcases runCommand_cases hardware (decide (s.phase = .uninitialized)) (initCause hardware key nonce)
    (initEffect key nonce) s with ⟨k, -, h⟩ | ⟨hp, hc, h⟩
  · exact .inl ⟨k, h⟩
  · exact .inr ⟨of_decide_eq_true hp, hc, h⟩

/-- R130, R52: the outcomes of XFORM under any configuration. -/
theorem xformWith_cases (cfg : Config) (src : Desc) (inOff count : Word) (dst : Desc) (outOff : Word)
    (s : State) :
    (∃ k, xformWith cfg src inOff count dst outOff s = raise k s) ∨
    (s.phase = .ready ∧ xformCause src inOff count dst outOff = none ∧
      ((partlyOverlap (regionStart src inOff) (regionStart dst outOff) count.toNat = true ∧
        xformWith cfg src inOff count dst outOff s = .refused .partialOverlap) ∨
      (partlyOverlap (regionStart src inOff) (regionStart dst outOff) count.toNat = false ∧
        xformWith cfg src inOff count dst outOff s =
          respond count (xformLoop (regionStart src inOff) (regionStart dst outOff) count.toNat
            (chunkCount count.toNat) 0 s)))) := by
  rcases runCommand_cases cfg (decide (s.phase = .ready)) (xformCause src inOff count dst outOff)
    (xformEffect src inOff count dst outOff) s with ⟨k, -, h⟩ | ⟨hp, hc, h⟩
  · exact .inl ⟨k, h⟩
  · refine .inr ⟨of_decide_eq_true hp, hc, ?_⟩
    cases ho : partlyOverlap (regionStart src inOff) (regionStart dst outOff) count.toNat
    · exact .inr ⟨rfl, h.trans (by simp [xformEffect, ho])⟩
    · exact .inl ⟨rfl, h.trans (by simp [xformEffect, ho])⟩

/-- R151, R154: the outcomes of DISPOSE. -/
theorem execDispose_cases (s : State) :
    (s.phase = .uninitialized ∧ execDispose s = respond 0 s) ∨
    (s.phase ≠ .uninitialized ∧ execDispose s = respond 0 ((s.setS zeroWords).setPhase .disposed)) := by
  unfold execDispose
  cases h : s.phase <;> simp [zeroize]

/-! ### The decoder's answers and the step -/

/-- R70: a packet decodes to a command or is illegal. -/
theorem decode_cases (p : Packet) :
    (∃ key nonce, decode p = .init key nonce) ∨
    (∃ src o n dst q, decode p = .xform src o n dst q) ∨ decode p = .dispose ∨
    decode p = .illegal p := by
  unfold decode
  split
  · simp
  · dsimp only
    split_ifs <;> simp

/-- R7, R60: what one step does, by what the host presented first. -/
theorem step_cases (s : State) :
    (s.inputs = [] ∧ step s = .next s) ∨
    (∃ p rest, s.inputs = .packet p :: rest ∧ step s = exec (decode p) (s.setInputs rest)) ∨
    (∃ a v rest, s.inputs = .write a v :: rest ∧
      step s = .next ((s.setInputs rest).setMem (s.mem.write a.toNat v))) ∨
    (∃ rest, s.inputs = .reset :: rest ∧ step s = hostReset (s.setInputs rest)) := by
  unfold step
  split
  · exact .inl ⟨‹_›, rfl⟩
  · exact .inr (.inl ⟨_, _, ‹_›, rfl⟩)
  · exact .inr (.inr (.inl ⟨_, _, _, ‹_›, rfl⟩))
  · exact .inr (.inr (.inr ⟨_, ‹_›, rfl⟩))

end Sys2Proof.Machine
end

