-- ==== Sys2Proof/Laws/Memory.lean ====
section
/-! SUPPORT. The laws of the byte space: a read after a write, the canonical form kept, and equal reads
make equal memories. -/

namespace Sys2Proof.Machine

@[simp] theorem Memory.read_nil (a : Nat) : Memory.read [] a = unlistedByte := rfl

theorem Memory.read_cons (b : Nat) (w : Byte) (m : Memory) (a : Nat) :
    Memory.read ((b, w) :: m) a = if b = a then w else m.read a := rfl

/-- Every address of `m` is above `b`. -/
def Memory.above (m : Memory) (b : Nat) : Prop := ∀ c ∈ m, b < c.1

theorem Memory.wf_cons {b : Nat} {w : Byte} {m : Memory} :
    Memory.wf ((b, w) :: m) ↔ Memory.above m b ∧ b < addrSpace ∧ w ≠ unlistedByte ∧ m.wf := by
  simp only [Memory.wf, Memory.above, List.pairwise_cons, List.forall_mem_cons]
  tauto

theorem Memory.wf_nil : Memory.wf [] := by simp [Memory.wf]

theorem Memory.read_of_above {m : Memory} {b a : Nat} (h : Memory.above m b) (ha : a ≤ b) :
    m.read a = unlistedByte := by
  induction m with
  | nil => rfl
  | cons c m ih =>
    have hc := h c (by simp)
    rw [Memory.read_cons, if_neg (by omega)]
    exact ih fun d hd => h d (by simp [hd])

/-- What a write can list: the written byte, or what was listed before. -/
theorem Memory.mem_write {m : Memory} {a : Nat} {v : Byte} {c : Host.Cell} (h : c ∈ m.write a v) :
    c = (a, v) ∨ c ∈ m := by
  induction m with
  | nil =>
    unfold Memory.write at h
    split at h <;> simp_all
  | cons d m ih =>
    unfold Memory.write at h
    split_ifs at h <;> simp only [List.mem_cons] at h ⊢ <;> tauto

theorem Memory.above_write {m : Memory} {b a : Nat} {v : Byte} (h : Memory.above m b) (ha : b < a) :
    Memory.above (m.write a v) b := by
  intro c hc
  rcases Memory.mem_write hc with rfl | hc
  · exact ha
  · exact h c hc

/-- A write keeps the canonical form. -/
theorem Memory.write_wf {m : Memory} {a : Nat} {v : Byte} (h : m.wf) (ha : a < addrSpace) :
    (m.write a v).wf := by
  induction m with
  | nil =>
    unfold Memory.write
    split
    · exact Memory.wf_nil
    · exact Memory.wf_cons.2 ⟨by simp [Memory.above], ha, ‹_›, Memory.wf_nil⟩
  | cons c m ih =>
    obtain ⟨b, w⟩ := c
    obtain ⟨hab, hb, hw, hm⟩ := Memory.wf_cons.1 h
    unfold Memory.write
    split
    · exact Memory.wf_cons.2 ⟨Memory.above_write hab ‹_›, hb, hw, ih hm⟩
    · split
      · subst b
        split
        · exact hm
        · exact Memory.wf_cons.2 ⟨hab, ha, ‹_›, hm⟩
      · split
        · exact h
        · refine Memory.wf_cons.2 ⟨?_, ha, ‹_›, h⟩
          intro d hd
          rcases List.mem_cons.1 hd with rfl | hd
          · show a < b; omega
          · have := hab d hd; omega

/-- A read after a write: the written byte at its address, every other byte as before. -/
theorem Memory.read_write {m : Memory} {a : Nat} {v : Byte} (h : m.wf) (x : Nat) :
    (m.write a v).read x = if x = a then v else m.read x := by
  induction m with
  | nil =>
    unfold Memory.write
    split
    · subst v; simp
    · simp [Memory.read_cons, eq_comm]
  | cons c m ih =>
    obtain ⟨b, w⟩ := c
    obtain ⟨hab, -, -, hm⟩ := Memory.wf_cons.1 h
    unfold Memory.write
    split
    · rw [Memory.read_cons, Memory.read_cons, ih hm]
      split_ifs <;> first | rfl | omega
    · split
      · subst b
        have hr : Memory.read m a = unlistedByte := Memory.read_of_above hab le_rfl
        split
        · rw [Memory.read_cons]
          by_cases hx : a = x
          · subst x; simp [*]
          · simp [hx, Ne.symm hx]
        · simp only [Memory.read_cons]
          by_cases hx : a = x
          · simp [hx]
          · simp [hx, Ne.symm hx]
      · split
        · have hr : Memory.read ((b, w) :: m) a = unlistedByte := by
            rw [Memory.read_cons, if_neg ‹_›, Memory.read_of_above hab (by omega)]
          by_cases hx : x = a
          · subst x; rw [if_pos rfl, hr]; exact Eq.symm ‹_›
          · rw [if_neg hx]
        · rw [Memory.read_cons]
          simp only [eq_comm]

theorem Memory.read_ne_of_mem {m : Memory} (h : m.wf) {c : Host.Cell} (hc : c ∈ m) :
    m.read c.1 = c.2 := by
  induction m with
  | nil => simp at hc
  | cons d m ih =>
    obtain ⟨b, w⟩ := d
    obtain ⟨hab, -, -, hm⟩ := Memory.wf_cons.1 h
    rw [Memory.read_cons]
    rcases List.mem_cons.1 hc with rfl | hc
    · simp
    · have := hab c hc
      rw [if_neg (by omega), ih hm hc]

/-- Canonical memories that read the same are the same data. -/
theorem Memory.ext_read {m m' : Memory} (h : m.wf) (h' : m'.wf) (hr : ∀ x, m.read x = m'.read x) :
    m = m' := by
  induction m generalizing m' with
  | nil =>
    cases m' with
    | nil => rfl
    | cons c m' =>
      have := Memory.read_ne_of_mem h' (c := c) (by simp)
      rw [← hr] at this
      exact absurd this.symm (Memory.wf_cons.1 h').2.2.1
  | cons c m ih =>
    obtain ⟨b, w⟩ := c
    obtain ⟨hab, -, hw, hm⟩ := Memory.wf_cons.1 h
    cases m' with
    | nil =>
      have := hr b
      simp [Memory.read_cons] at this
      exact absurd this hw
    | cons c' m' =>
      obtain ⟨b', w'⟩ := c'
      obtain ⟨hab', -, hw', hm'⟩ := Memory.wf_cons.1 h'
      have hb : b = b' := by
        rcases Nat.lt_trichotomy b b' with hlt | heq | hgt
        · have := hr b
          rw [Memory.read_cons, if_pos rfl, Memory.read_cons, if_neg (by omega),
            Memory.read_of_above hab' (by omega)] at this
          exact absurd this hw
        · exact heq
        · have := hr b'
          rw [Memory.read_cons, if_neg (by omega), Memory.read_cons, if_pos rfl,
            Memory.read_of_above hab (by omega)] at this
          exact absurd this.symm hw'
      subst b'
      have hww : w = w' := by simpa [Memory.read_cons] using hr b
      subst w'
      rw [ih hm hm' fun x => ?_]
      by_cases hx : b = x
      · subst x; rw [Memory.read_of_above hab le_rfl, Memory.read_of_above hab' le_rfl]
      · simpa [Memory.read_cons, hx] using hr x

/-- `MemRead(a, n)` byte by byte. -/
theorem Memory.getD_readBytes (m : Memory) (a n k : Nat) (h : k < n) (d : Byte) :
    (m.readBytes a n).getD k d = m.read (a + k) := by
  induction n generalizing a k with
  | zero => omega
  | succ n ih =>
    cases k with
    | zero => simp [Memory.readBytes]
    | succ k =>
      have := ih (a + 1) k (by omega)
      simpa [Memory.readBytes, Nat.add_assoc, Nat.add_comm 1 k] using this

/-- `MemRead(a, n)` depends on those `n` bytes only. -/
theorem Memory.readBytes_congr {m m' : Memory} {a n : Nat}
    (h : ∀ k, k < n → m.read (a + k) = m'.read (a + k)) : m.readBytes a n = m'.readBytes a n := by
  induction n generalizing a with
  | zero => rfl
  | succ n ih =>
    rw [Memory.readBytes, Memory.readBytes, ih fun k hk => ?_]
    · have := h 0 (by omega)
      rw [Nat.add_zero] at this
      rw [this]
    · have := h (k + 1) (by omega)
      rwa [show a + 1 + k = a + (k + 1) by omega]

end Sys2Proof.Machine
end

