-- ==== Sys2Proof/Laws/Words.lean ====
section
/-! SUPPORT. One lemma for each word operation: what it does to each bit, byte or word. -/

namespace Sys2Proof.Machine

/-! ### Operators -/

theorem toNat_leByte (v : Word) (k : Nat) : (leByte v k).toNat = v.toNat / 2 ^ (8 * k) % 256 := by
  simp [leByte, BitVec.extractLsb'_toNat, Nat.shiftRight_eq_div_pow]

/-- R83 as a number. -/
theorem toNat_le32Load (buf : List Byte) (off : Nat) :
    (le32Load buf off).toNat = (buf.getD off 0).toNat + (buf.getD (off + 1) 0).toNat * 2 ^ 8 +
      (buf.getD (off + 2) 0).toNat * 2 ^ 16 + (buf.getD (off + 3) 0).toNat * 2 ^ 24 := by
  have h0 := (buf.getD off 0).isLt
  have h1 := (buf.getD (off + 1) 0).isLt
  have h2 := (buf.getD (off + 2) 0).isLt
  have h3 := (buf.getD (off + 3) 0).isLt
  simp only [le32Load, BitVec.toNat_ofNat, Nat.add_zero]
  omega

/-- R83: byte `k` of the loaded word is the byte at `off + k`. -/
theorem leByte_le32Load (buf : List Byte) (off k : Nat) (hk : k < 4) :
    leByte (le32Load buf off) k = buf.getD (off + k) 0 := by
  apply BitVec.eq_of_toNat_eq
  rw [toNat_leByte, toNat_le32Load]
  have h0 := (buf.getD off 0).isLt
  have h1 := (buf.getD (off + 1) 0).isLt
  have h2 := (buf.getD (off + 2) 0).isLt
  have h3 := (buf.getD (off + 3) 0).isLt
  obtain rfl | rfl | rfl | rfl : k = 0 ∨ k = 1 ∨ k = 2 ∨ k = 3 := by omega
  all_goals
    simp only [Nat.mul_zero, Nat.mul_one, Nat.reduceMul, Nat.pow_zero, Nat.div_one, Nat.add_zero]
    omega

/-- Two words with the same four bytes are the same word. -/
theorem word_ext_leByte {v w : Word} (h : ∀ k, k < 4 → leByte v k = leByte w k) : v = w := by
  apply BitVec.eq_of_toNat_eq
  have hk (k : Nat) (hk : k < 4) : v.toNat / 2 ^ (8 * k) % 256 = w.toNat / 2 ^ (8 * k) % 256 := by
    rw [← toNat_leByte, ← toNat_leByte, h k hk]
  have h0 := hk 0 (by omega)
  have h1 := hk 1 (by omega)
  have h2 := hk 2 (by omega)
  have h3 := hk 3 (by omega)
  have hv := v.isLt
  have hw := w.isLt
  simp only [Nat.mul_zero, Nat.mul_one, Nat.reduceMul, Nat.pow_zero, Nat.div_one] at h0 h1 h2 h3
  omega

@[simp] theorem length_le32Store (value : Word) (buf : List Byte) (off : Nat) :
    (le32Store value buf off).length = buf.length := by
  simp [le32Store]

/-- R84, byte by byte: the four bytes written, every other byte unchanged. -/
theorem getElem?_le32Store (value : Word) (buf : List Byte) (off j : Nat)
    (h : off + 4 ≤ buf.length) :
    (le32Store value buf off)[j]? =
      if off ≤ j ∧ j < off + 4 then some (leByte value (j - off)) else buf[j]? := by
  have key : j < off ∨ off + 4 ≤ j ∨ j = off ∨ j = off + 1 ∨ j = off + 2 ∨ j = off + 3 := by omega
  rcases key with hj | hj | rfl | rfl | rfl | rfl
  · rw [if_neg (by omega)]
    simp only [le32Store]
    repeat rw [List.getElem?_set_ne (by omega)]
  · rw [if_neg (by omega)]
    simp only [le32Store]
    repeat rw [List.getElem?_set_ne (by omega)]
  all_goals
    rw [if_pos (by omega)]
    simp only [le32Store]
    simp [List.getElem?_set]
    try omega

/-! ### Rounds -/

/-- R110: a step writes one word. -/
theorem getElem_qrStep (x : Words) (t a b j : Fin 16) (r : RotAmt) :
    (qrStep x t a b r)[j] =
      if j = t then xor32 x[t] (rotl32 (add32 x[a] x[b]) (rotAmount r)) else x[j] := by
  simp only [qrStep, Fin.getElem_fin, Vector.getElem_set, Fin.ext_iff, eq_comm]

/-- Two sixteen-word files with the same words are the same. -/
theorem words_ext {x y : Words} (h : ∀ i : Fin 16, x[i] = y[i]) : x = y :=
  Vector.ext fun i hi => h ⟨i, hi⟩

/-- R110: a step with its target apart from its sources is its own inverse. -/
theorem qrStep_qrStep (x : Words) {t a b : Fin 16} (r : RotAmt) (ha : t ≠ a) (hb : t ≠ b) :
    qrStep (qrStep x t a b r) t a b r = x := by
  apply words_ext
  intro j
  simp only [getElem_qrStep, if_neg (Ne.symm ha), if_neg (Ne.symm hb)]
  split
  · subst j; simp [xor32]
  · rfl

theorem doubleRounds_succ' (n : Nat) (x : Words) :
    doubleRounds (n + 1) x = doubleRound (doubleRounds n x) := by
  induction n generalizing x with
  | zero => rfl
  | succ n ih => exact ih (doubleRound x)

/-- R115: a keystream byte. -/
theorem getElem_keystream (S : Words) (j : Nat) (h : j < 64) :
    (keystream S)[j] = leByte (add32 ((coreRounds S)[j / 4]'(by omega)) (S[j / 4]'(by omega))) (j % 4) := by
  simp [keystream, serialise, feedForward]

theorem ksByte_eq (ks : KeyBlock) (j : Nat) (h : j < 64) : ksByte ks j = ks[j] := by
  simp [ksByte, h]

/-- R115: the block is what sixteen `LE32_STORE`s leave in a 64-byte buffer. -/
theorem serialise_eq_stores (z : Words) :
    (serialise z).toList =
      (List.finRange 16).foldl (fun ks i => le32Store z[i] ks (4 * i.val)) (List.replicate 64 0) := by
  have gen : ∀ (l : List (Fin 16)) (buf : List Byte), buf.length = 64 →
      (l.foldl (fun ks i => le32Store z[i] ks (4 * i.val)) buf).length = 64 ∧
      ∀ (j : Nat) (hj : j < 64),
        (l.foldl (fun ks i => le32Store z[i] ks (4 * i.val)) buf)[j]? =
          if (⟨j / 4, by omega⟩ : Fin 16) ∈ l then some (leByte (z[j / 4]'(by omega)) (j % 4)) else buf[j]? := by
    intro l
    induction l with
    | nil => intro buf hb; simp [hb]
    | cons i l ih =>
      intro buf hb
      obtain ⟨hl, hr⟩ := ih (le32Store z[i] buf (4 * i.val)) (by simp [hb])
      refine ⟨hl, fun j hj => ?_⟩
      simp only [List.foldl_cons]
      rw [hr j hj, getElem?_le32Store _ _ _ _ (by omega)]
      simp only [List.mem_cons]
      by_cases hm : (⟨j / 4, by omega⟩ : Fin 16) ∈ l
      · simp [hm]
      · by_cases hi : (⟨j / 4, by omega⟩ : Fin 16) = i
        · have hv : j / 4 = i.val := congrArg Fin.val hi
          rw [if_neg hm, if_pos (by omega), if_pos (.inl hi)]
          have hz : z[i] = z[j / 4]'(by omega) := by simp [hv]
          rw [hz]
          congr 2
          omega
        · have : ¬(4 * i.val ≤ j ∧ j < 4 * i.val + 4) := by
            intro h; apply hi; apply Fin.ext; dsimp only; omega
          simp [hm, hi, this]
  apply List.ext_getElem?
  intro j
  by_cases hj : j < 64
  · rw [(gen (List.finRange 16) _ (by simp)).2 j hj, if_pos (List.mem_finRange _)]
    simp [serialise, hj]
  · rw [List.getElem?_eq_none (by simpa using hj),
      List.getElem?_eq_none (by rw [(gen (List.finRange 16) _ (by simp)).1]; omega)]

end Sys2Proof.Machine
end

