-- ==== Sys2Proof/Laws/Stream.lean ====
section
/-! SUPPORT. One lemma for each operation of the stream transform: the counter, the bytes of a chunk, one
BLOCK, and the loop over the chunks. -/

namespace Sys2Proof.Machine

/-! ### The counter (R24, R133) -/

theorem counter_lt (S : Words) : counter S < 2 ^ 64 := by
  have h8 := S[8].isLt
  have h9 := S[9].isLt
  unfold counter
  omega

theorem getElem_incCounter (S : Words) (i : Fin 16) :
    (incCounter S)[i] = if i = 8 then S[8] + 1
      else if i = 9 ∧ S[8] + 1 = 0 then S[9] + 1 else S[i] := by
  have h8 : (i = 8) = (8 = i.val) := by simp [Fin.ext_iff, eq_comm]
  have h9 : (i = 9) = (9 = i.val) := by simp [Fin.ext_iff, eq_comm]
  simp only [incCounter, add1_32, add32, h8, h9, Fin.getElem_fin]
  by_cases hc : S[8] + 1 = 0
  · simp only [hc, and_true, if_true, Vector.getElem_set]
    split_ifs <;> first | rfl | omega
  · simp only [hc, and_false, if_false, Vector.getElem_set]

theorem incCounter_lo (S : Words) : (incCounter S)[8] = S[8] + 1 := by
  have h := getElem_incCounter S 8
  rwa [if_pos rfl] at h

theorem incCounter_hi (S : Words) :
    (incCounter S)[9] = if S[8] + 1 = 0 then S[9] + 1 else S[9] := by
  have h := getElem_incCounter S 9
  rw [if_neg (by decide)] at h
  simpa using h

/-- R133: `CTR <- (CTR + 1) mod 2^64`. -/
theorem counter_incCounter (S : Words) : counter (incCounter S) = (counter S + 1) % 2 ^ 64 := by
  have h8 := S[8].isLt
  have h9 := S[9].isLt
  have e1 : (1 : Word).toNat = 1 := rfl
  have lo : (S[8] + 1).toNat = (S[8].toNat + 1) % 2 ^ 32 := by rw [BitVec.toNat_add, e1]
  have hi : (S[9] + 1).toNat = (S[9].toNat + 1) % 2 ^ 32 := by rw [BitVec.toNat_add, e1]
  unfold counter
  rw [incCounter_hi, incCounter_lo]
  by_cases hc : S[8] + 1 = 0
  · have hn : (S[8] + 1).toNat = 0 := by rw [hc]; rfl
    rw [if_pos hc, lo, hi]
    rw [lo] at hn
    omega
  · have hn : (S[8] + 1).toNat ≠ 0 := fun h => hc (BitVec.eq_of_toNat_eq h)
    rw [if_neg hc, lo]
    rw [lo] at hn
    omega

/-- The counter words are all the counter is. -/
theorem words_eq_of_counter {S T : Words} (hc : counter S = counter T)
    (h : ∀ i : Fin 16, i ≠ 8 → i ≠ 9 → S[i] = T[i]) : S = T := by
  have s8 := S[8].isLt
  have t8 := T[8].isLt
  unfold counter at hc
  apply words_ext
  intro i
  by_cases h8 : i = 8
  · subst h8; apply BitVec.eq_of_toNat_eq; show S[8].toNat = T[8].toNat; omega
  · by_cases h9 : i = 9
    · subst h9; apply BitVec.eq_of_toNat_eq; show S[9].toNat = T[9].toNat; omega
    · exact h i h8 h9

/-! ### The bytes of a chunk (R132) -/

theorem xorBytes_wf (ks : KeyBlock) (a b n : Nat) {m : Memory} (h : m.wf) (hb : b + n ≤ addrSpace) :
    (xorBytes ks a b n m).wf := by
  induction n with
  | zero => exact h
  | succ n ih => exact Memory.write_wf (ih (by omega)) (by omega)

/-- R132, R49: with the regions the same or disjoint, output byte `j` is input byte `j` XOR `KS[j]` and
every other byte is as before. -/
theorem read_xorBytes (ks : KeyBlock) (a b n : Nat) {m : Memory} (h : m.wf) (hb : b + n ≤ addrSpace)
    (ho : a = b ∨ a + n ≤ b ∨ b + n ≤ a) (x : Nat) :
    (xorBytes ks a b n m).read x =
      if b ≤ x ∧ x < b + n then m.read (a + (x - b)) ^^^ ksByte ks (x - b) else m.read x := by
  induction n generalizing x with
  | zero => rw [if_neg (by omega)]; rfl
  | succ n ih =>
    have hw := xorBytes_wf ks a b n h (by omega)
    have ih := ih (by omega) (by omega)
    have hs : xorBytes ks a b (n + 1) m =
        (xorBytes ks a b n m).write (b + n) ((xorBytes ks a b n m).read (a + n) ^^^ ksByte ks n) := rfl
    have hin : (xorBytes ks a b n m).read (a + n) = m.read (a + n) := by
      rw [ih (a + n), if_neg (by omega)]
    rw [hs, Memory.read_write hw, hin]
    by_cases hx : x = b + n
    · subst hx
      rw [if_pos rfl, if_pos (by omega), Nat.add_sub_cancel_left]
    · rw [if_neg hx, ih x]
      by_cases hr : b ≤ x ∧ x < b + n
      · rw [if_pos hr, if_pos (by omega)]
      · rw [if_neg hr, if_neg (by omega)]

/-! ### One BLOCK (R132) -/

section
variable (a b n : Nat) (s : State)

@[simp] theorem permute_S : (permute s).S = s.S := by simp [permute]
@[simp] theorem permute_phase : (permute s).phase = s.phase := by simp [permute]
@[simp] theorem permute_KS : (permute s).KS = keystream s.S := by simp [permute, keystream]
@[simp] theorem permute_X : (permute s).X = coreRounds s.S := by simp [permute]
@[simp] theorem permute_opOut : (permute s).opOut = s.opOut := by simp [permute]
@[simp] theorem permute_mem : (permute s).mem = s.mem := by simp [permute]
@[simp] theorem permute_rsp : (permute s).rsp = s.rsp := by simp [permute]
@[simp] theorem permute_inputs : (permute s).inputs = s.inputs := by simp [permute]

@[simp] theorem runBlock_S : (runBlock a b n s).S = incCounter s.S := by simp [runBlock]
@[simp] theorem runBlock_phase : (runBlock a b n s).phase = s.phase := by simp [runBlock]
@[simp] theorem runBlock_X : (runBlock a b n s).X = zeroWords := by simp [runBlock]
@[simp] theorem runBlock_KS : (runBlock a b n s).KS = zeroBlock := by simp [runBlock]
@[simp] theorem runBlock_opOut : (runBlock a b n s).opOut = .idle := by simp [runBlock]
@[simp] theorem runBlock_mem : (runBlock a b n s).mem = xorBytes (keystream s.S) a b n s.mem := by
  simp [runBlock]
@[simp] theorem runBlock_rsp : (runBlock a b n s).rsp = s.rsp := by simp [runBlock]
@[simp] theorem runBlock_inputs : (runBlock a b n s).inputs = s.inputs := by simp [runBlock]
end

/-! ### The loop over the chunks (R131) -/

/-- The number of chunks from position `pos` on. -/
def chunksFrom (count pos : Nat) : Nat := (count - pos + 63) / 64

theorem chunkCount_eq (count : Nat) : chunkCount count = chunksFrom count 0 := rfl

/-- Every field of the loop's result but the byte space. -/
theorem xformLoop_fields (src dst count : Nat) (fuel pos : Nat) (s : State) :
    (xformLoop src dst count fuel pos s).phase = s.phase ∧
    (xformLoop src dst count fuel pos s).rsp = s.rsp ∧
    (xformLoop src dst count fuel pos s).inputs = s.inputs ∧
    counter (xformLoop src dst count fuel pos s).S =
      (counter s.S + min fuel (chunksFrom count pos)) % 2 ^ 64 ∧
    ∀ i : Fin 16, i ≠ 8 → i ≠ 9 → (xformLoop src dst count fuel pos s).S[i] = s.S[i] := by
  have hlt := counter_lt s.S
  induction fuel generalizing pos s with
  | zero =>
    refine ⟨rfl, rfl, rfl, ?_, fun i _ _ => rfl⟩
    show counter s.S = _
    omega
  | succ fuel ih =>
    unfold xformLoop
    split
    · rename_i hpos
      obtain ⟨h1, h2, h3, h4, h5⟩ := ih (pos + min blockBytes (count - pos))
        (runBlock (src + pos) (dst + pos) (min blockBytes (count - pos)) s) (counter_lt _)
      simp only [runBlock_phase, runBlock_rsp, runBlock_inputs] at h1 h2 h3
      refine ⟨h1, h2, h3, ?_, fun i hi8 hi9 => ?_⟩
      · rw [h4, runBlock_S, counter_incCounter]
        have : min (fuel + 1) (chunksFrom count pos) =
            min fuel (chunksFrom count (pos + min blockBytes (count - pos))) + 1 := by
          simp only [chunksFrom, blockBytes]; omega
        rw [this]
        omega
      · rw [h5 i hi8 hi9, runBlock_S, getElem_incCounter, if_neg hi8, if_neg (by simp [hi9])]
    · rename_i hpos
      have : chunksFrom count pos = 0 := by simp only [chunksFrom]; omega
      refine ⟨rfl, rfl, rfl, ?_, fun i _ _ => rfl⟩
      omega

/-- The keystream byte that byte `k` of a run of chunks from cipher state `S` meets: block `k / 64` on. -/
def loopByte (S : Words) : Nat → Nat → Byte
  | 0, k => ksByte (keystream S) k
  | q + 1, k => loopByte (incCounter S) q k

theorem loopByte_zero (S : Words) (k : Nat) : loopByte S 0 k = ksByte (keystream S) k := by
  rw [loopByte]

theorem loopByte_succ (S : Words) (q k : Nat) :
    loopByte S (q + 1) k = loopByte (incCounter S) q k := by
  rw [loopByte]

/-- R131, R143: the byte space after the loop, from a position that is a multiple of 64 into the region:
output byte `k` is input byte `k` XOR byte `k mod 64` of the block `k / 64` after the start. -/
theorem xformLoop_mem (src dst count : Nat) (ho : src = dst ∨ src + count ≤ dst ∨ dst + count ≤ src)
    (hd : dst + count ≤ addrSpace) (fuel pos : Nat) (s : State) (h : Memory.wf s.mem)
    (hf : chunksFrom count pos ≤ fuel) :
    Memory.wf (xformLoop src dst count fuel pos s).mem ∧
    ∀ x, (xformLoop src dst count fuel pos s).mem.read x =
      if dst + pos ≤ x ∧ x < dst + count then
        s.mem.read (src + (x - dst)) ^^^ loopByte s.S ((x - dst - pos) / 64) ((x - dst - pos) % 64)
      else s.mem.read x := by
  induction fuel generalizing pos s with
  | zero =>
    have : count ≤ pos := by simp only [chunksFrom] at hf; omega
    exact ⟨h, fun x => by rw [if_neg (by omega)]; rfl⟩
  | succ fuel ih =>
    unfold xformLoop
    split
    · rename_i hlt
      simp only [chunksFrom] at hf
      have hb : blockBytes = 64 := rfl
      have hov : src + pos = dst + pos ∨
          src + pos + min blockBytes (count - pos) ≤ dst + pos ∨
          dst + pos + min blockBytes (count - pos) ≤ src + pos := by omega
      have hwf := xorBytes_wf (keystream s.S) (src + pos) (dst + pos) (min blockBytes (count - pos)) h
        (by omega)
      have hread := read_xorBytes (keystream s.S) (src + pos) (dst + pos)
        (min blockBytes (count - pos)) h (by omega) hov
      obtain ⟨w, r⟩ := ih (pos + min blockBytes (count - pos))
        (runBlock (src + pos) (dst + pos) (min blockBytes (count - pos)) s)
        (by rw [runBlock_mem]; exact hwf) (by simp only [chunksFrom]; omega)
      refine ⟨w, fun x => ?_⟩
      rw [r x]
      simp only [runBlock_mem, runBlock_S]
      by_cases hin : dst + pos ≤ x ∧ x < dst + count
      · rw [if_pos hin]
        by_cases hfirst : x < dst + pos + min blockBytes (count - pos)
        · rw [if_neg (by omega), hread x, if_pos (by omega)]
          have e1 : (x - dst - pos) / 64 = 0 := by omega
          have e2 : (x - dst - pos) % 64 = x - (dst + pos) := by omega
          have e3 : src + pos + (x - (dst + pos)) = src + (x - dst) := by omega
          rw [e1, e2, e3, loopByte_zero]
        · rw [if_pos (by omega), hread (src + (x - dst)), if_neg (by omega)]
          have e1 : (x - dst - pos) / 64 = (x - dst - (pos + min blockBytes (count - pos))) / 64 + 1 := by
            omega
          have e2 : (x - dst - pos) % 64 = (x - dst - (pos + min blockBytes (count - pos))) % 64 := by
            omega
          rw [e1, e2, loopByte_succ]
      · rw [if_neg hin, if_neg (by omega), hread x, if_neg (by omega)]
    · exact ⟨h, fun x => by rw [if_neg (by omega)]⟩

/-- R137: a loop stopped at a position its chunks reach goes on where it stopped. -/
theorem xformLoop_add (src dst count : Nat) (f g pos : Nat) (s : State) (h : pos + 64 * f ≤ count) :
    xformLoop src dst count (f + g) pos s =
      xformLoop src dst count g (pos + 64 * f) (xformLoop src dst count f pos s) := by
  induction f generalizing pos s with
  | zero => simp [xformLoop]
  | succ f ih =>
    have hb : blockBytes = 64 := rfl
    have hmin : min blockBytes (count - pos) = 64 := by omega
    rw [show f + 1 + g = (f + g) + 1 by omega]
    simp only [xformLoop]
    rw [if_pos (by omega), hmin, ih _ _ (by omega)]
    simp only [if_pos (show pos < count by omega)]
    rw [show pos + 64 + 64 * f = pos + 64 * (f + 1) by omega]

end Sys2Proof.Machine
end

