-- ==== Sys2Proof/Laws/Counter.lean ====
section
/-! SUPPORT. The cipher state at a chosen counter value (`withCounter`), and the keystream byte a run of
chunks meets in terms of it (R143). -/

namespace Sys2Proof.Machine

theorem getElem_withCounter (S : Words) (c : Nat) (i : Fin 16) (h8 : i ≠ 8) (h9 : i ≠ 9) :
    (withCounter S c)[i] = S[i] := by
  have e8 : ¬8 = i.val := fun h => h8 (Fin.ext h.symm)
  have e9 : ¬9 = i.val := fun h => h9 (Fin.ext h.symm)
  simp [withCounter, e8, e9]

theorem counter_withCounter (S : Words) (c : Nat) : counter (withCounter S c) = c % 2 ^ 64 := by
  have lo : (withCounter S c)[8] = BitVec.ofNat 32 c := by simp [withCounter]
  have hi : (withCounter S c)[9] = BitVec.ofNat 32 (c / 2 ^ 32) := by simp [withCounter]
  unfold counter
  rw [lo, hi, BitVec.toNat_ofNat, BitVec.toNat_ofNat]
  omega

/-- R133: advancing the counter is setting it to the next value. -/
theorem incCounter_eq_withCounter (S : Words) :
    incCounter S = withCounter S ((counter S + 1) % 2 ^ 64) := by
  apply words_eq_of_counter
  · rw [counter_incCounter, counter_withCounter, Nat.mod_mod]
  · intro i h8 h9
    rw [getElem_withCounter _ _ _ h8 h9, getElem_incCounter, if_neg h8, if_neg (fun h => h9 h.1)]

theorem withCounter_counter (S : Words) : withCounter S (counter S) = S := by
  apply words_eq_of_counter
  · rw [counter_withCounter, Nat.mod_eq_of_lt (counter_lt S)]
  · exact fun i h8 h9 => getElem_withCounter S _ i h8 h9

theorem withCounter_withCounter (S : Words) (c d : Nat) :
    withCounter (withCounter S c) d = withCounter S d := by
  apply words_eq_of_counter
  · rw [counter_withCounter, counter_withCounter]
  · intro i h8 h9
    rw [getElem_withCounter _ _ _ h8 h9, getElem_withCounter _ _ _ h8 h9,
      getElem_withCounter _ _ _ h8 h9]

/-- R143: block `q` after the start is the keystream of the counter value `CTR + q`. -/
theorem loopByte_eq (S : Words) (q k : Nat) :
    loopByte S q k = ksByte (keystream (withCounter S ((counter S + q) % 2 ^ 64))) k := by
  induction q generalizing S with
  | zero =>
    rw [loopByte_zero, Nat.add_zero, Nat.mod_eq_of_lt (counter_lt S), withCounter_counter]
  | succ q ih =>
    rw [loopByte_succ, ih, counter_incCounter, incCounter_eq_withCounter, withCounter_withCounter]
    congr 3
    omega

/-- R143: byte `k` of an XFORM. -/
theorem loopByte_eq_streamByte (S : Words) (k : Nat) :
    loopByte S (k / 64) (k % 64) = streamByte S k := loopByte_eq S (k / 64) (k % 64)

end Sys2Proof.Machine
end

