-- ==== Sys2Proof/Laws/Init.lean ====
section
/-! SUPPORT. One lemma for each group of state words INIT loads (R97, R99), and for the bytes of a word
loaded from the byte space (R101). -/

namespace Sys2Proof.Machine

theorem stateWords32_const (key nonce : List Byte) :
    (stateWords32 key nonce)[0] = 0x61707865 ∧ (stateWords32 key nonce)[5] = 0x3320646E ∧
    (stateWords32 key nonce)[10] = 0x79622D32 ∧ (stateWords32 key nonce)[15] = 0x6B206574 ∧
    (stateWords32 key nonce)[8] = 0 ∧ (stateWords32 key nonce)[9] = 0 := ⟨rfl, rfl, rfl, rfl, rfl, rfl⟩

theorem stateWords32_keyLo (key nonce : List Byte) (j : Fin 4) :
    (stateWords32 key nonce)[1 + j.val] = le32Load key (4 * j.val) := by
  fin_cases j <;> rfl

theorem stateWords32_keyHi (key nonce : List Byte) (j : Fin 4) :
    (stateWords32 key nonce)[11 + j.val] = le32Load key (16 + 4 * j.val) := by
  fin_cases j <;> rfl

theorem stateWords32_nonce (key nonce : List Byte) (j : Fin 2) :
    (stateWords32 key nonce)[6 + j.val] = le32Load nonce (4 * j.val) := by
  fin_cases j <;> rfl

theorem stateWords16_const (key nonce : List Byte) :
    (stateWords16 key nonce)[0] = 0x61707865 ∧ (stateWords16 key nonce)[5] = 0x3120646E ∧
    (stateWords16 key nonce)[10] = 0x79622D36 ∧ (stateWords16 key nonce)[15] = 0x6B206574 ∧
    (stateWords16 key nonce)[8] = 0 ∧ (stateWords16 key nonce)[9] = 0 := ⟨rfl, rfl, rfl, rfl, rfl, rfl⟩

theorem stateWords16_key (key nonce : List Byte) (j : Fin 4) :
    (stateWords16 key nonce)[1 + j.val] = le32Load key (4 * j.val) ∧
    (stateWords16 key nonce)[11 + j.val] = le32Load key (4 * j.val) := by
  fin_cases j <;> exact ⟨rfl, rfl⟩

theorem stateWords16_nonce (key nonce : List Byte) (j : Fin 2) :
    (stateWords16 key nonce)[6 + j.val] = le32Load nonce (4 * j.val) := by
  fin_cases j <;> rfl

/-- R83, R101: byte `k` of a word loaded from `n` bytes of the byte space. -/
theorem byte_of_loaded (m : Memory) (a n off k : Nat) (hk : k < 4) (h : off + 4 ≤ n) :
    (le32Load (m.readBytes a n) off).extractLsb' (8 * k) 8 = m.read (a + off + k) := by
  have := leByte_le32Load (m.readBytes a n) off k hk
  rw [leByte] at this
  rw [this, Memory.getD_readBytes _ _ _ _ (by omega), Nat.add_assoc]

end Sys2Proof.Machine
end

