-- ==== Sys2Proof/Laws/PerInstr.lean ====
section
/-! SUPPORT. The family of statements made per instruction (LAWS.json): the packet of a well-formed
instruction belongs to the opcode-table row the instruction names. -/

namespace Sys2Proof.Laws.PacketRow

/-- R71: the packet an instruction assembles to has the header of that instruction's table row. -/
def Statement (i : Instr) : Prop :=
  i.wellFormed = true → ∀ p, encode i = some p → Packet.tableRow p = i.tableRow

theorem headerRow_init : ∀ a b, headerRow (header 1 a b) = some .init := by decide
theorem headerRow_xform : ∀ a b, headerRow (header 2 a b) = some .xform := by decide

theorem init (key nonce : Desc) : Statement (.init key nonce) := by
  rintro - p ⟨⟩
  exact headerRow_init key.valid nonce.valid

theorem xform (src : Desc) (inOff count : Word) (dst : Desc) (outOff : Word) :
    Statement (.xform src inOff count dst outOff) := by
  rintro - p ⟨⟩
  exact headerRow_xform src.valid dst.valid

theorem dispose : Statement .dispose := by rintro - p ⟨⟩; rfl

theorem final (src : Desc) (inOff count outBase : Word) :
    Statement (.final src inOff count outBase) := by
  intro _ p h
  exact xform src inOff count (finalDst count outBase) 0 rfl p h

theorem illegal (p : Packet) : Statement (.illegal p) := by
  intro h q hq
  cases hq
  exact Option.isNone_iff_eq_none.1 h

theorem add32 (v w : Word) : Statement (.add32 v w) := fun _ _ h => nomatch h
theorem add1 (v : Word) : Statement (.add1 v) := fun _ _ h => nomatch h
theorem rotl32 (v : Word) (c : Nat) : Statement (.rotl32 v c) := fun _ _ h => nomatch h
theorem le32Load (buf : List Byte) (off : Nat) : Statement (.le32Load buf off) :=
  fun _ _ h => nomatch h
theorem le32Store (value : Word) (buf : List Byte) (off : Nat) :
    Statement (.le32Store value buf off) := fun _ _ h => nomatch h
theorem xor32 (v w : Word) : Statement (.xor32 v w) := fun _ _ h => nomatch h
theorem qrstep (t a b : Fin 16) (r : RotAmt) : Statement (.qrstep t a b r) := fun _ _ h => nomatch h
theorem quarterround (y0 y1 y2 y3 : Fin 16) : Statement (.quarterround y0 y1 y2 y3) :=
  fun _ _ h => nomatch h
theorem columnround : Statement .columnround := fun _ _ h => nomatch h
theorem rowround : Statement .rowround := fun _ _ h => nomatch h
theorem doubleround : Statement .doubleround := fun _ _ h => nomatch h
theorem permute : Statement .permute := fun _ _ h => nomatch h
theorem block (a b : Word) (n : Nat) : Statement (.block a b n) := fun _ _ h => nomatch h
theorem ctrInc : Statement .ctrInc := fun _ _ h => nomatch h
theorem zeroize : Statement .zeroize := fun _ _ h => nomatch h

end Sys2Proof.Laws.PacketRow
end

