-- ==== Sys2Proof/Tests/Slice0.lean ====
section
/-! SUPPORT. The model's own tests. Expected values are the spec's: the packets of `30_encoding.md` R72 and
the vectors of `95_test_vectors.md` (named V-...), the worked examples of R103, R110, R112, R113 and
R119. Then one witness for the hypotheses of each statement of Obligations.lean. -/

namespace Sys2Proof.Tests

open Sys2Proof.Machine

/-! ### Small states -/

/-- `S_A`, from the text of V-INIT1. -/
def sA : Words :=
  #v[0x61707865, 0x03020100, 0x07060504, 0x0B0A0908, 0x0F0E0D0C, 0x3320646E, 0x68676665, 0x6C6B6A69,
     0, 0, 0x79622D32, 0x13121110, 0x17161514, 0x1B1A1918, 0x1F1E1D1C, 0x6B206574]

/-- `X[0] = 1`, every other word 0: the input of the examples of R111 to R114. -/
def oneWord : Words := Vector.replicate 16 0 |>.set 0 1

/-- The byte space holding `bs` at `a`. -/
def bytesAt (a : Nat) (bs : List Byte) : Memory :=
  ((bs.zipIdx a).map fun p => (p.2, p.1)).filter fun c => c.2 ≠ unlistedByte

/-- `key_A` at `0x100`, `nonce_A` at `0x200` (95_test_vectors.md section 4). -/
def memA : Memory :=
  bytesAt 0x100 ((List.range 32).map (BitVec.ofNat 8)) ++
  bytesAt 0x200 [0x65, 0x66, 0x67, 0x68, 0x69, 0x6A, 0x6B, 0x6C]

def keyA : Desc := ⟨true, 0x100, 32⟩
def nonceA : Desc := ⟨true, 0x200, 8⟩
def null : Desc := ⟨false, 0, 0⟩
/-- The buffers `[0x1000, 100]` and `[0x2000, 100]` of the vectors. -/
def inBuf : Desc := ⟨true, 0x1000, 100⟩
def outBuf : Desc := ⟨true, 0x2000, 100⟩

def fresh : State := { State.reset with mem := memA }
def ready : State := { State.reset with S := sA, phase := .ready, mem := memA }
def disposed : State := { State.reset with phase := .disposed }

/-- The state a result goes on in. -/
def after (r : Result) (s : State) : State :=
  match r with
  | .next t => t
  | .fault _ => s
  | .refused _ => s

/-- A result is a next state. -/
def goesOn (r : Result) : Bool :=
  match r with
  | .next _ => true
  | .fault _ => false
  | .refused _ => false

/-- The refusal a result is, if it is one. -/
def refusalOf (r : Result) : Option Refusal :=
  match r with
  | .next _ => none
  | .fault _ => none
  | .refused x => some x

theorem eq_next {r : Result} (s : State) (h : goesOn r = true) : r = .next (after r s) := by
  cases r <;> first | rfl | exact absurd h Bool.false_ne_true

theorem eq_refused {r : Result} {x : Refusal} (h : refusalOf r = some x) : r = .refused x := by
  cases r <;> cases h; rfl

/-- `s` with one packet presented. -/
def given (p : Packet) (s : State) : State := { s with inputs := [.packet p] }

def putOut (i : Instr) : OpOut := (after (exec i State.reset) State.reset).opOut

/-- The working buffer after an operation on it. -/
def bufferAfter (i : Instr) (x : Words) : Words :=
  (after (exec i { State.reset with X := x }) State.reset).X

/-- The counter words `(S[9], S[8])` after CTR_INC. -/
def counterAfter (hi lo : Word) : Word × Word :=
  let t := after (exec .ctrInc { ready with S := (sA.set 8 lo).set 9 hi }) ready
  (t.S[9], t.S[8])

/-! ### Well-formedness: one ill-formed term for each check -/

theorem smoke_illegal : (Instr.illegal #v[0x301, 0, 0, 0, 0, 0, 0, 0]).wellFormed = false := by decide
theorem smoke_illegal_dispose : (Instr.illegal #v[3, 0, 0, 0, 0, 0, 0, 0]).wellFormed = false := by decide
theorem smoke_rotl_zero : (Instr.rotl32 1 0).wellFormed = false := by decide
theorem smoke_rotl_full : (Instr.rotl32 1 32).wellFormed = false := by decide
theorem smoke_load : (Instr.le32Load [1, 2, 3, 4] 1).wellFormed = false := by decide
theorem smoke_store : (Instr.le32Store 0 [1, 2, 3] 0).wellFormed = false := by decide
theorem smoke_qrstep_a : (Instr.qrstep 4 4 12 .r7).wellFormed = false := by decide
theorem smoke_qrstep_b : (Instr.qrstep 4 0 4 .r7).wellFormed = false := by decide
theorem smoke_qrstep_ab : (Instr.qrstep 4 0 0 .r7).wellFormed = false := by decide
theorem smoke_quarterround : (Instr.quarterround 0 4 8 0).wellFormed = false := by decide
theorem smoke_block_none : (Instr.block 0 64 0).wellFormed = false := by decide
theorem smoke_block_long : (Instr.block 0 128 65).wellFormed = false := by decide
theorem smoke_block_in : (Instr.block 0xFFFFFFFF 0 2).wellFormed = false := by decide
theorem smoke_block_out : (Instr.block 0 0xFFFFFFFF 2).wellFormed = false := by decide

/-! ### Encodings, written out from 30_encoding.md -/

/-- R63, R64: `OP = 001`, `A_VALID` bit 8, `B_VALID` bit 9 (V-ENC1, V-ENC5). -/
theorem test_decode_init :
    decode #v[0b00000000_00000000_00000011_00000001, 0x100, 0x20, 0x200, 8, 0, 0, 0] =
      .init keyA nonceA ∧
    decode #v[0b00000000_00000000_00000010_00000001, 0, 0, 0x200, 8, 0, 0, 0] =
      .init null nonceA := by decide

/-- R65, R72: the example of R72, and a null input buffer (V-ERR9). -/
theorem test_decode_xform :
    decode #v[0b00000000_00000000_00000011_00000010, 0x1000, 0x40, 0, 0x40, 0x2000, 0x40, 0] =
      .xform ⟨true, 0x1000, 64⟩ 0 64 ⟨true, 0x2000, 64⟩ 0 ∧
    decode #v[0b00000000_00000000_00000010_00000010, 0, 0, 5, 0, 0x2000, 0, 7] =
      .xform null 5 0 ⟨true, 0x2000, 0⟩ 7 := by decide

/-- R66, R75: V-ENC3, V-ILL6. -/
theorem test_decode_dispose :
    decode #v[0b00000000_00000000_00000000_00000011, 0, 0, 0, 0, 0, 0, 0] = .dispose ∧
    decode #v[3, 0xFFFFFFFF, 0xFFFFFFFF, 0xFFFFFFFF, 0xFFFFFFFF, 0xFFFFFFFF, 0xFFFFFFFF, 0xFFFFFFFF] =
      .dispose := by decide

/-- R73: FINAL assembles to the packet of V-ENC4, which decodes to the XFORM of V-ENC4. -/
theorem test_final_packet :
    encode (.final inBuf 10 90 0x4000) =
      some #v[0x00000302, 0x1000, 0x64, 0x0A, 0x5A, 0x4000, 0x5A, 0] ∧
    decode #v[0x00000302, 0x1000, 0x64, 0x0A, 0x5A, 0x4000, 0x5A, 0] =
      .xform inBuf 10 90 ⟨true, 0x4000, 90⟩ 0 := by decide

/-- R70: V-ILL1, V-ILL2, V-ILL3, V-ILL4, V-ILL5 and the reserved bits 7 and 31, each for its reason. -/
theorem test_illegal_reasons :
    ([0x00000000, 4, 5, 6, 7, 0x403, 0x0A, 0x82, 0x80000001, 0x103, 0x203] : List Word).map
        (fun w => illegalReason #v[w, 0, 0, 0, 0, 0, 0, 0]) =
      [some .reservedOp, some .reservedOp, some .reservedOp, some .reservedOp, some .reservedOp,
       some .reservedBits, some .reservedBits, some .reservedBits, some .reservedBits,
       some .validOnDispose, some .validOnDispose] := by decide

/-- The opcode table's numbering: `W0` in the lowest 32 bits. -/
theorem test_table_word :
    decodeTableWord 32 0x301 = some (.init ⟨true, 0, 0⟩ ⟨true, 0, 0⟩) ∧
    decodeTableWord 32 3 = some .dispose ∧
    decodeTableWord 64 (0x301 + 0x100 * 2 ^ 32) = some (.init ⟨true, 0x100, 0⟩ ⟨true, 0, 0⟩) := by decide

/-- R68, end of 95_test_vectors.md section 3.6. -/
theorem test_responses :
    responseR0 ⟨.ok, 100⟩ = 0 ∧ responseR1 ⟨.ok, 100⟩ = 0x64 ∧
    responseR0 ⟨.error .invalidArgument, 0⟩ = 1 ∧ responseR0 ⟨.error .invalidState, 0⟩ = 2 := by decide

/-- R72, with the numbers in decimal: V-ENC1, V-ENC4 and a null descriptor. -/
theorem test_text :
    (Instr.init keyA nonceA).text = some "INIT key=[256,32], nonce=[512,8]" ∧
    (Instr.xform null 0 1 outBuf 5).text = some "XFORM in=null+0, count=1, out=[8192,100]+5" ∧
    (Instr.final inBuf 10 90 0x4000).text = some "FINAL in=[4096,100]+10, count=90, out=16384" ∧
    (⟨.ok, 100⟩ : Response).text = "-> OK(100)" := by decide +kernel

/-! ### Operators -/

/-- V-ADD2, V-ADD5. -/
theorem test_add32 : putOut (.add32 0xFFFFFFFF 1) = .word 0 ∧
    putOut (.add32 0x61707865 0x17161514) = .word 0x78868D79 := by decide
/-- V-INC2, V-INC3. -/
theorem test_add1 : putOut (.add1 0xFFFFFFFF) = .word 0 ∧
    putOut (.add1 0xFFFFFFFE) = .word 0xFFFFFFFF := by decide
/-- V-ROT3, V-ROT4. -/
theorem test_rotl32 : putOut (.rotl32 0x78868D79 7) = .word 0x4346BCBC ∧
    putOut (.rotl32 1 31) = .word 0x80000000 := by decide
/-- V-ROT8. -/
theorem test_rotl32_outside : refusalOf (exec (.rotl32 1 32) State.reset) = some .rotlCount := by decide
/-- V-LD2, V-LD3. -/
theorem test_le32_load : putOut (.le32Load [0, 1, 2, 3, 4, 5, 6, 7] 3) = .word 0x06050403 ∧
    putOut (.le32Load [0xFF, 0, 0, 0x80] 0) = .word 0x800000FF := by decide
/-- V-ST3. -/
theorem test_le32_store : putOut (.le32Store 0x000000FF [0xAA, 0xAA, 0xAA, 0xAA, 0xAA, 0xAA] 1) =
    .bytes [0xAA, 0xFF, 0, 0, 0, 0xAA] := by decide
/-- R110, the example's last step. -/
theorem test_xor32 : putOut (.xor32 0x0F0E0D0C 0x4346BCBC) = .word 0x4C48B1B0 := by decide

/-! ### The core -/

/-- R110, the example: only `X[4]` is written. -/
theorem test_qrstep : bufferAfter (.qrstep 4 0 12 .r7) sA = sA.set 4 0x4C48B1B0 := by decide +kernel
/-- V-QR4, on the words 0, 4, 8, 12. -/
theorem test_quarterround :
    bufferAfter (.quarterround 0 4 8 12)
        ((((zeroWords.set 0 0xE7E8C006).set 4 0xC4F9417D).set 8 0x6479B4B2).set 12 0x68C67137) =
      (((zeroWords.set 0 0xE876D72B).set 4 0x9361DFD5).set 8 0xF1460244).set 12 0x948541A3 := by
  decide +kernel
/-- R119, after the first COLUMNROUND. -/
theorem test_columnround : bufferAfter .columnround sA =
    #v[0x59FB844B, 0xFB5778CB, 0x730E39EE, 0x12314B37, 0x4C48B1B0, 0x224E867C, 0xAA7C2BB9, 0xCF0A3C93,
       0x72542B5B, 0x1132B71B, 0xEFFE5B1B, 0x63EB4D37, 0x8CB762C7, 0xBD2D0B90, 0xFBD7D6EC, 0x4C08AEA2] := by
  decide +kernel
/-- R113, the example. -/
theorem test_rowround : bufferAfter .rowround oneWord =
    (((zeroWords.set 0 0x08008145).set 1 0x00000080).set 2 0x00010200).set 3 0x20500000 := by
  decide +kernel
/-- V-DR1. -/
theorem test_doubleround : bufferAfter .doubleround oneWord =
    #v[0x8186A22D, 0x0040A284, 0x82479210, 0x06929051, 0x08000090, 0x02402200, 0x00004000, 0x00800000,
       0x00010200, 0x20400000, 0x08008104, 0x00000000, 0x20500000, 0xA0000040, 0x0008180A, 0x612A8020] := by
  decide +kernel
/-- V-CORE1: the keystream block of `S_A`, every byte. -/
theorem test_permute : (after (exec .permute ready) ready).KS.toList =
    [0x91, 0x3E, 0xCA, 0x37, 0x95, 0x1A, 0x3A, 0x85, 0xBD, 0xE6, 0x23, 0x7B, 0x39, 0x5D, 0x90, 0xF2,
     0xF5, 0x6B, 0x90, 0x43, 0x2F, 0xED, 0x75, 0x0F, 0x7D, 0x23, 0xB1, 0x3E, 0x18, 0xB1, 0x2D, 0xDE,
     0xAD, 0xD5, 0x70, 0x21, 0x50, 0x47, 0xC9, 0x27, 0x80, 0xD5, 0x25, 0xBA, 0xAF, 0x4C, 0xC0, 0x58,
     0xF2, 0x07, 0xEA, 0xDF, 0x86, 0xB1, 0xE4, 0xCC, 0x00, 0x57, 0x19, 0x40, 0x44, 0xFE, 0xB2, 0x89] := by
  decide +kernel

/-! ### INIT -/

/-- V-INIT1, through the port. -/
theorem test_init :
    let t := after (step (given #v[0x301, 0x100, 0x20, 0x200, 8, 0, 0, 0] fresh)) fresh
    t.S = sA ∧ t.phase = .ready ∧ t.rsp = some ⟨.ok, 0⟩ := by decide +kernel
/-- V-INIT3: a key that ends with the byte space is accepted, one byte further is not. V-K128 (V-REF2): the
state words with `KEY128_ENABLE = 1`; V-ERR1 without. -/
theorem test_init_keys :
    let s := { State.reset with mem := [(0x100, 0x80)] }
    (after (exec (.init ⟨true, 0xFFFFFFE0, 32⟩ nonceA) s) s).rsp = some ⟨.ok, 0⟩ ∧
    (after (exec (.init ⟨true, 0xFFFFFFE1, 32⟩ nonceA) s) s).rsp = some ⟨.error .invalidArgument, 0⟩ ∧
    (after (initWith ⟨true, .stateFirst⟩ ⟨true, 0x100, 16⟩ nonceA s) s).S =
      #v[0x61707865, 0x00000080, 0, 0, 0, 0x3120646E, 0, 0, 0, 0, 0x79622D36, 0x00000080, 0, 0, 0,
         0x6B206574] ∧
    (after (exec (.init ⟨true, 0x100, 16⟩ nonceA) s) s).rsp = some ⟨.error .invalidArgument, 0⟩ := by
  decide +kernel

/-! ### The stream transform -/

/-- V-CTR1. -/
theorem test_ctr_inc : counterAfter 7 0xFFFFFFFF = (8, 0) ∧
    counterAfter 0xFFFFFFFF 0xFFFFFFFE = (0xFFFFFFFF, 0xFFFFFFFF) ∧
    counterAfter 0xFFFFFFFF 0xFFFFFFFF = (0, 0) := by decide +kernel
/-- V-CTR3 as one BLOCK: the block of counter `2^64 - 1` begins with `32`, and the counter wraps. -/
theorem test_block :
    let s := { ready with S := (sA.set 8 0xFFFFFFFF).set 9 0xFFFFFFFF, mem := [] }
    let t := after (exec (.block 0x1000 0x2000 1) s) s
    t.mem = [(0x2000, 0x32)] ∧ t.S = sA := by decide +kernel
/-- V-STR5, through the port: offsets select bytes, not keystream. -/
theorem test_xform :
    let s := given #v[0x302, 0x1000, 100, 96, 4, 0x2000, 8, 4]
      { ready with mem := bytesAt 0x1060 [0x60, 0x61, 0x62, 0x63] }
    let t := after (step s) s
    t.mem = bytesAt 0x1060 [0x60, 0x61, 0x62, 0x63] ++ bytesAt 0x2004 [0xF1, 0x5F, 0xA8, 0x54] ∧
    t.rsp = some ⟨.ok, 4⟩ ∧ t.S = sA.set 8 1 := by decide +kernel
/-- V-ERR14, V-OVL1, V-ERR16: an offset sum that does not wrap, a partial overlap, and `COUNT = 0` at the
end of both buffers. -/
theorem test_xform_checks :
    (after (exec (.xform inBuf 0xFFFFFFFF 2 outBuf 0) ready) ready).rsp =
      some ⟨.error .invalidArgument, 0⟩ ∧
    refusalOf (exec (.xform inBuf 0 64 inBuf 8) ready) = some .partialOverlap ∧
    (after (exec (.xform inBuf 100 0 outBuf 100) ready) ready).rsp = some ⟨.ok, 0⟩ := by decide +kernel
/-- R73, V-STR4 by FINAL in place: "attack at dawn" at `0x3000`. -/
theorem test_final :
    let s := { ready with mem := bytesAt 0x3000 [0x61, 0x74, 0x74, 0x61, 0x63, 0x6B, 0x20, 0x61, 0x74,
      0x20, 0x64, 0x61, 0x77, 0x6E] }
    (after (exec (.final ⟨true, 0x3000, 14⟩ 0 14 0x3000) s) s).mem =
      bytesAt 0x3000 [0xF0, 0x4A, 0xBE, 0x56, 0xF6, 0x71, 0x1A, 0xE4, 0xC9, 0xC6, 0x47, 0x1A, 0x4E,
        0x33] := by decide +kernel

/-! ### Disposal, illegal packets, priority, reset -/

/-- V-DSP1. -/
theorem test_dispose :
    let t := after (exec .dispose { ready with S := sA.set 8 2 }) ready
    t.S = zeroWords ∧ t.phase = .disposed ∧ t.rsp = some ⟨.ok, 0⟩ := by decide +kernel
/-- V-DSP3. -/
theorem test_dispose_early :
    let t := after (exec .dispose fresh) fresh
    t.phase = .uninitialized ∧ t.rsp = some ⟨.ok, 0⟩ := by decide +kernel
/-- R151. -/
theorem test_zeroize : (after (exec .zeroize ready) ready).S = zeroWords ∧
    (after (exec .zeroize ready) ready).phase = .ready := by decide +kernel
/-- V-ILL3: in `Ready` the key is not cleared. -/
theorem test_illegal :
    let t := after (step (given #v[0x403, 0, 0, 0, 0, 0, 0, 0] ready)) ready
    t.S = sA ∧ t.phase = .ready ∧ t.rsp = some ⟨.error .invalidArgument, 0⟩ := by decide +kernel
/-- V-ILL5: the packet is judged before the phase. -/
theorem test_illegal_first :
    (after (step (given #v[0x0A, 0, 0, 0, 0, 0, 0, 0] disposed)) disposed).rsp =
      some ⟨.error .invalidArgument, 0⟩ := by decide +kernel
/-- V-ERR7, V-ERR8: both values of `ERR_ORDER`. -/
theorem test_error_order :
    (after (exec (.xform null 0 1 null 0) disposed) disposed).rsp = some ⟨.error .invalidState, 0⟩ ∧
    (after (xformWith ⟨false, .argumentFirst⟩ null 0 1 null 0 disposed) disposed).rsp =
      some ⟨.error .invalidArgument, 0⟩ ∧
    (after (exec (.init null null) ready) ready).rsp = some ⟨.error .invalidState, 0⟩ ∧
    (after (initWith ⟨false, .argumentFirst⟩ null null ready) ready).rsp =
      some ⟨.error .invalidArgument, 0⟩ := by decide +kernel
/-- R180: reset from `Ready`; the byte space stays. -/
theorem test_reset :
    after (step { ready with inputs := [.reset], rsp := some ⟨.ok, 7⟩ }) ready = fresh := by decide +kernel
/-- R40: a byte written as 0 leaves the list; the canonical form is kept. -/
theorem test_host_write :
    (after (step { fresh with inputs := [.write 0x200 0] }) fresh).mem.length + 1 = memA.length ∧
    (after (step { fresh with inputs := [.write 0xFFFFFFFF 9] }) fresh).mem = memA ++ [(0xFFFFFFFF, 9)] := by
  decide +kernel
/-- The packet of a table word runs as the first step after reset. -/
theorem test_with_fetch_word :
    (after (step (State.reset.withFetchWord 32 3)) State.reset).rsp = some ⟨.ok, 0⟩ ∧
    (after (step (State.reset.withFetchWord 32 0x302)) State.reset).rsp =
      some ⟨.error .invalidState, 0⟩ := by decide +kernel

/-! ### Witnesses: a concrete input that meets the hypotheses of each statement -/

/-- The smallest packets of the three commands that run from `ready` or `fresh`. -/
def pInit : Packet := #v[0x301, 0x100, 0x20, 0x200, 8, 0, 0, 0]
def pXform : Packet := #v[0x302, 0x1000, 100, 0, 1, 0x2000, 100, 0]
def pDispose : Packet := #v[3, 0, 0, 0, 0, 0, 0, 0]
def pIllegal : Packet := #v[0, 0, 0, 0, 0, 0, 0, 0]

theorem ready_inv (l : List HostInput) : State.Inv { ready with inputs := l } :=
  ⟨by show Memory.wf memA; decide +kernel, fun h => absurd rfl h, fun _ => ⟨rfl, rfl, rfl, rfl⟩,
    rfl, rfl, rfl⟩

theorem witness_DecodeUndoesEncode :
    (Instr.final inBuf 0xFFFFFFFF 1 0).wellFormed = true ∧
    (encode (.final inBuf 0xFFFFFFFF 1 0)).isSome = true ∧
    (Instr.illegal pIllegal).wellFormed = true ∧ (encode (.illegal pIllegal)).isSome = true := by decide

theorem witness_EncodeUndoesDecode :
    pXform.tableRow = some .xform ∧ pIllegal.tableRow = none := by decide

theorem witness_DecodeFollowsMatchAndMask :
    pInit[0] &&& 0xFFFFFCFF = 1 ∧ pXform[0] &&& 0xFFFFFCFF = 2 ∧ pDispose[0] = 3 ∧
    (#v[0x103, 0, 0, 0, 0, 0, 0, 0] : Packet)[0] &&& 0xFFFFFCFF ≠ 1 ∧
    (#v[0x103, 0, 0, 0, 0, 0, 0, 0] : Packet)[0] &&& 0xFFFFFCFF ≠ 2 ∧
    (#v[0x103, 0, 0, 0, 0, 0, 0, 0] : Packet)[0] ≠ 3 := by decide

theorem witness_UnusedWordsHaveNoEffect :
    let q : Packet := #v[0x301, 0x100, 0x20, 0x200, 8, 1, 2, 3]
    (pInit[0] &&& 0xFFFFFCFF = 1 ∧ q[0] = pInit[0] ∧ q[1] = pInit[1] ∧ q[2] = pInit[2] ∧
      q[3] = pInit[3] ∧ q[4] = pInit[4]) ∧
    (pDispose[0] = 3 ∧ (#v[3, 1, 1, 1, 1, 1, 1, 0xFFFFFFFF] : Packet)[0] = 3) := by decide

theorem witness_StepRunsThePresentedPacket :
    (given pXform ready).inputs = .packet pXform :: [] := rfl

theorem witness_IdleAndHostWrite :
    ready.inputs = [] ∧ Memory.wf ready.mem ∧
    (({ ready with inputs := [.write 0xFFFFFFFF 0] }).inputs = .write 0xFFFFFFFF 0 :: []) :=
  ⟨rfl, (ready_inv []).memWf, rfl⟩

theorem witness_ResetInput :
    ({ ready with inputs := [.reset] } : State).inputs = .reset :: [] := rfl

theorem witness_EveryPacketIsAnswered :
    (given pDispose ready).inputs = .packet pDispose :: [] ∧
    ∃ t, step (given pDispose ready) = .next t := ⟨rfl, _, rfl⟩

theorem witness_StepStopsOnlyOnPartialOverlap :
    step (given #v[0x302, 0x1000, 100, 0, 64, 0x1000, 100, 36] ready) = .refused .partialOverlap :=
  eq_refused (by decide +kernel)

theorem witness_InvKeptByStep :
    (given pDispose ready).Inv ∧ ∃ t, step (given pDispose ready) = .next t :=
  ⟨ready_inv _, _, rfl⟩

/-- A step that stays `Ready` (an illegal packet), at an index that is no counter word. -/
theorem witness_OnlyCounterWordsChangeWhileReady :
    ∃ t, step (given pIllegal ready) = .next t ∧ ready.phase = .ready ∧ t.phase = .ready ∧
      (7 : Fin 16) ≠ 8 ∧ (7 : Fin 16) ≠ 9 := ⟨_, rfl, rfl, rfl, by decide, by decide⟩

theorem witness_OnlyXformMovesTheCounter :
    let s := given pXform ready
    s.phase = .ready ∧ step s = .next (after (step s) s) ∧ (after (step s) s).phase = .ready ∧
      counter (after (step s) s).S ≠ counter s.S :=
  ⟨rfl, eq_next _ (by decide +kernel), by decide +kernel⟩

/-- The three edges. -/
theorem witness_PhaseChangesOnlyAlongItsEdges :
    ∀ s ∈ [given pInit fresh, given pDispose ready, { ready with inputs := [.reset] }],
      step s = .next (after (step s) s) ∧ (after (step s) s).phase ≠ s.phase := by
  have h : ∀ s ∈ [given pInit fresh, given pDispose ready, { ready with inputs := [.reset] }],
      goesOn (step s) = true ∧ (after (step s) s).phase ≠ s.phase := by decide +kernel
  exact fun s hs => ⟨eq_next s (h s hs).1, (h s hs).2⟩

/-- Both kinds, and each command that can report one. -/
theorem witness_ErrorsLeaveNoTrace :
    ∀ c ∈ [(Instr.illegal pIllegal, ready), (.init keyA nonceA, ready), (.xform null 0 0 outBuf 0, ready),
        (.final null 0 0 0, fresh)],
      c.1.isCommand = true ∧ exec c.1 c.2 = .next (after (exec c.1 c.2) c.2) ∧
      ((after (exec c.1 c.2) c.2).rsp = some ⟨.error .invalidArgument, 0⟩ ∨
        (after (exec c.1 c.2) c.2).rsp = some ⟨.error .invalidState, 0⟩) := by
  have h : ∀ c ∈ [(Instr.illegal pIllegal, ready), (.init keyA nonceA, ready),
        (.xform null 0 0 outBuf 0, ready), (.final null 0 0 0, fresh)],
      c.1.isCommand = true ∧ goesOn (exec c.1 c.2) = true ∧
      ((after (exec c.1 c.2) c.2).rsp = some ⟨.error .invalidArgument, 0⟩ ∨
        (after (exec c.1 c.2) c.2).rsp = some ⟨.error .invalidState, 0⟩) := by decide +kernel
  exact fun c hc => ⟨(h c hc).1, eq_next c.2 (h c hc).2.1, (h c hc).2.2⟩

/-- One state for each clause, the operand clauses at the nearest failing value. -/
theorem witness_ErrorPriority :
    disposed.phase ≠ .uninitialized ∧
    (fresh.phase = .uninitialized ∧ initCause hardware ⟨true, 0xFFFFFFE1, 32⟩ nonceA ≠ none) ∧
    fresh.phase ≠ .ready ∧
    (ready.phase = .ready ∧ xformCause inBuf 37 64 outBuf 0 ≠ none) ∧
    xformCause inBuf 99 2 ⟨true, 0, 2⟩ 0 ≠ none ∧
    initCause hardware keyA nonceA = none ∧ xformCause inBuf 36 64 outBuf 36 = none ∧
    partlyOverlap (regionStart inBuf 36) (regionStart outBuf 36) 64 = false := by decide

theorem witness_ArgumentFirstSwapsTheStages :
    initCause ⟨false, .argumentFirst⟩ null nonceA ≠ none ∧
    (initCause ⟨true, .argumentFirst⟩ ⟨true, 0, 16⟩ nonceA = none ∧ ready.phase ≠ .uninitialized) ∧
    xformCause null 0 1 null 0 ≠ none ∧
    (xformCause inBuf 36 64 outBuf 36 = none ∧ disposed.phase ≠ .ready) := by decide

theorem witness_LifecycleTable :
    (fresh.phase = .uninitialized ∧ initCause hardware keyA nonceA = none ∧
      initCause hardware keyA ⟨true, 0x200, 7⟩ ≠ none) ∧
    (ready.phase = .ready ∧ xformCause inBuf 36 64 outBuf 36 = none ∧
      partlyOverlap (regionStart inBuf 36) (regionStart outBuf 36) 64 = false ∧
      xformCause inBuf 0 101 outBuf 0 ≠ none) ∧
    disposed.phase = .disposed ∧
    ({ ready with inputs := [.reset] } : State).inputs = .reset :: [] := by decide

theorem witness_BytesWritten :
    let s := ready
    let i : Instr := .xform inBuf 100 0 outBuf 100
    i.isCommand = true ∧ exec i s = .next (after (exec i s) s) ∧
      (after (exec i s) s).rsp = some ⟨.ok, 0⟩ := ⟨rfl, eq_next _ (by decide +kernel), by decide +kernel⟩

theorem witness_TransientsDoNotSurvive :
    Instr.isCommand .dispose = true ∧ (∃ t, exec .dispose ready = .next t) ∧
    (∃ a b n, Instr.block 0x1000 0x2000 64 = .block a b n) ∧
    exec (.block 0x1000 0x2000 1) ready =
      .next (after (exec (.block 0x1000 0x2000 1) ready) ready) :=
  ⟨rfl, ⟨_, rfl⟩, ⟨_, _, _, rfl⟩, eq_next _ (by decide +kernel)⟩

theorem witness_OnlyTheTransformStores :
    Instr.mayStore .zeroize = false ∧ ∃ t, exec .zeroize ready = .next t := ⟨rfl, _, rfl⟩

theorem witness_Rotl32Effect : (0 < 1 ∧ 1 < 32) ∧ (0 < 31 ∧ 31 < 32) ∧ (32 ≤ 32) := by decide

theorem witness_Le32LoadEffect :
    2 + 4 ≤ ([1, 2, 3, 4, 5, 6] : List Byte).length ∧ ([1, 2, 3, 4, 5, 6] : List Byte).length < 3 + 4 := by
  decide

theorem witness_Le32StoreEffect :
    0 + 4 ≤ ([1, 2, 3, 4] : List Byte).length ∧ ([1, 2, 3, 4] : List Byte).length < 1 + 4 := by decide

theorem witness_QrstepEffect :
    ((15 : Fin 16) ≠ 0 ∧ (15 : Fin 16) ≠ 14 ∧ (0 : Fin 16) ≠ 14) ∧ (15 : Fin 16) = 15 := by decide

theorem witness_QrstepTwiceRestores :
    (4 : Fin 16) ≠ 0 ∧ (4 : Fin 16) ≠ 12 ∧ (0 : Fin 16) ≠ 12 := by decide

theorem witness_QuarterroundIsFourSteps : ([0, 5, 10, 15] : List (Fin 16)).Nodup := by decide

/-- The key and the nonce each end with the byte space, and overlap each other. -/
theorem witness_InitEffect :
    let key : Desc := ⟨true, 0xFFFFFFE0, 32⟩
    let nonce : Desc := ⟨true, 0xFFFFFFF8, 8⟩
    fresh.phase = .uninitialized ∧ key.valid = true ∧ nonce.valid = true ∧ key.len.toNat = 32 ∧
    8 ≤ nonce.len.toNat ∧ key.base.toNat + key.len.toNat ≤ 2 ^ 32 ∧
    nonce.base.toNat + nonce.len.toNat ≤ 2 ^ 32 := by decide

/-- Each failing check alone, at its nearest value; and a wrong phase. -/
theorem witness_InitRejects :
    fresh.phase = .uninitialized ∧ null.valid = false ∧
    (⟨true, 0, 33⟩ : Desc).len.toNat ≠ 32 ∧ (⟨true, 0, 7⟩ : Desc).len.toNat < 8 ∧
    2 ^ 32 < (⟨true, 0xFFFFFFE1, 32⟩ : Desc).base.toNat + (⟨true, 0xFFFFFFE1, 32⟩ : Desc).len.toNat ∧
    2 ^ 32 < (⟨true, 0xFFFFFFF9, 8⟩ : Desc).base.toNat + (⟨true, 0xFFFFFFF9, 8⟩ : Desc).len.toNat ∧
    ready.phase ≠ .uninitialized := by decide

/-- Another byte space that agrees on the key and nonce bytes and differs elsewhere. -/
theorem witness_InitReadsOnlyKeyAndNonce :
    exec (.init keyA nonceA) fresh = .next (after (exec (.init keyA nonceA) fresh) fresh) ∧
    (∀ k, k < 32 → Memory.read (memA ++ [(0x208, 1)]) (0x100 + k) = fresh.mem.read (0x100 + k)) ∧
    (∀ k, k < 8 → Memory.read (memA ++ [(0x208, 1)]) (0x200 + k) = fresh.mem.read (0x200 + k)) :=
  ⟨eq_next _ (by decide +kernel), by decide +kernel⟩

theorem witness_Key128Option :
    let key : Desc := ⟨true, 0xFFFFFFF0, 16⟩
    fresh.phase = .uninitialized ∧ key.valid = true ∧ nonceA.valid = true ∧ key.len.toNat = 16 ∧
    8 ≤ nonceA.len.toNat ∧ key.base.toNat + key.len.toNat ≤ 2 ^ 32 ∧
    nonceA.base.toNat + nonceA.len.toNat ≤ 2 ^ 32 := by decide

/-- Both sides of the carry. -/
theorem witness_CtrIncEffect :
    ready.S[8] + 1 ≠ 0 ∧ (sA.set 8 0xFFFFFFFF)[8] + 1 = 0 := by decide

/-- A full chunk at the top of the byte space, in place and side by side. -/
theorem witness_BlockEffect :
    Memory.wf ready.mem ∧ (1 ≤ 64 ∧ 64 ≤ 64) ∧
    (0xFFFFFFC0 : Word).toNat + 64 ≤ 2 ^ 32 ∧ (0xFFFFFF80 : Word).toNat + 64 ≤ (0xFFFFFFC0 : Word).toNat ∧
    (0xFFFFFFC0 : Word) = 0xFFFFFFC0 := ⟨(ready_inv []).memWf, by decide⟩

theorem witness_BlockStops :
    (0 = 0 ∧ 64 < 65) ∧ (1 ≤ 64 ∧ 2 ^ 32 < (0xFFFFFFC1 : Word).toNat + 64) ∧
    ((0xFFFFFFC0 : Word) ≠ 0xFFFFFFBF ∧ (0xFFFFFFC0 : Word).toNat < (0xFFFFFFBF : Word).toNat + 2 ∧
      (0xFFFFFFBF : Word).toNat < (0xFFFFFFC0 : Word).toNat + 2) := by decide

/-- Side by side, in place, and nothing to do with regions that would overlap. -/
theorem witness_XformEffect :
    let dst : Desc := ⟨true, 0xFFFFFF9C, 100⟩
    Memory.wf ready.mem ∧ ready.phase = .ready ∧ inBuf.valid = true ∧ dst.valid = true ∧
    inBuf.base.toNat + inBuf.len.toNat ≤ 2 ^ 32 ∧ dst.base.toNat + dst.len.toNat ≤ 2 ^ 32 ∧
    (36 : Word).toNat + (64 : Word).toNat ≤ inBuf.len.toNat ∧
    (36 : Word).toNat + (64 : Word).toNat ≤ dst.len.toNat ∧
    regionStart inBuf 36 + (64 : Word).toNat ≤ regionStart dst 36 ∧
    regionStart inBuf 36 = regionStart inBuf 36 ∧ (0 : Word) = 0 :=
  ⟨(ready_inv []).memWf, by decide⟩

theorem witness_XformRejects :
    ready.phase = .ready ∧ null.valid = false ∧
    2 ^ 32 < (⟨true, 0xFFFFFFFF, 2⟩ : Desc).base.toNat + (⟨true, 0xFFFFFFFF, 2⟩ : Desc).len.toNat ∧
    inBuf.len.toNat < (37 : Word).toNat + (64 : Word).toNat ∧
    outBuf.len.toNat < (0xFFFFFFFF : Word).toNat + (2 : Word).toNat ∧ disposed.phase ≠ .ready := by decide

theorem witness_PartialOverlapIsRefused :
    ready.phase = .ready ∧ xformCause inBuf 0 64 inBuf 36 = none ∧
    regionStart inBuf 0 ≠ regionStart inBuf 36 ∧
    regionStart inBuf 0 < regionStart inBuf 36 + (64 : Word).toNat ∧
    regionStart inBuf 36 < regionStart inBuf 0 + (64 : Word).toNat := by decide

theorem witness_XformOfZeroBytes :
    ready.phase = .ready ∧ xformCause inBuf 100 0 outBuf 100 = none := by decide

theorem witness_SplitAtMultipleOf64 :
    ready.phase = .ready ∧ 64 ∣ (64 : Word).toNat ∧ (64 : Word).toNat + (36 : Word).toNat < 2 ^ 32 ∧
    xformCause inBuf 0 (64 + 36) outBuf 0 = none ∧
    partlyOverlap (regionStart inBuf 0) (regionStart outBuf 0) ((64 : Word).toNat + (36 : Word).toNat) =
      false := by decide

/-- In place twice; and to a second buffer and on to a third. -/
theorem witness_TransformTwiceRestores :
    Memory.wf ready.mem ∧ ready.phase = .ready ∧ xformCause inBuf 0 100 inBuf 0 = none ∧
    partlyOverlap (regionStart inBuf 0) (regionStart inBuf 0) 100 = false ∧
    xformCause inBuf 0 100 outBuf 0 = none ∧ xformCause outBuf 0 100 ⟨true, 0x3000, 100⟩ 0 = none ∧
    partlyOverlap (regionStart inBuf 0) (regionStart outBuf 0) 100 = false ∧
    partlyOverlap (regionStart outBuf 0) (regionStart ⟨true, 0x3000, 100⟩ 0) 100 = false :=
  ⟨(ready_inv []).memWf, by decide⟩

theorem witness_FinalEffect :
    Memory.wf ready.mem ∧ ready.phase = .ready ∧ inBuf.valid = true ∧
    inBuf.base.toNat + inBuf.len.toNat ≤ 2 ^ 32 ∧ (0 : Word).toNat + (100 : Word).toNat ≤ inBuf.len.toNat ∧
    (0xFFFFFF9C : Word).toNat + (100 : Word).toNat ≤ 2 ^ 32 ∧
    regionStart inBuf 0 + (100 : Word).toNat ≤ (0xFFFFFF9C : Word).toNat :=
  ⟨(ready_inv []).memWf, by decide⟩

theorem witness_DisposeEffect :
    ready.phase = .ready ∧ disposed.phase = .disposed ∧ fresh.phase = .uninitialized := by decide

/-- Each way of being illegal, at its lowest bit, and a legal header. -/
theorem witness_IllegalPackets :
    (given pIllegal ready).inputs = .packet pIllegal :: [] ∧ (0 : Word).toNat % 8 = 0 ∧
    4 ≤ (4 : Word).toNat % 8 ∧ (0x0A : Word).toNat / 8 % 32 ≠ 0 ∧ 1024 ≤ (0x401 : Word).toNat ∧
    ((0x103 : Word).toNat % 8 = 3 ∧ (0x103 : Word).toNat / 256 % 4 ≠ 0) ∧
    ¬((0x302 : Word).toNat % 8 = 0 ∨ 4 ≤ (0x302 : Word).toNat % 8 ∨ (0x302 : Word).toNat / 8 % 32 ≠ 0 ∨
      1024 ≤ (0x302 : Word).toNat ∨
      ((0x302 : Word).toNat % 8 = 3 ∧ (0x302 : Word).toNat / 256 % 4 ≠ 0)) := ⟨rfl, by decide⟩

end Sys2Proof.Tests
end

