-- ==== Sys2Proof/Proofs/Step.lean ====
section
/-! SUPPORT. The step, by what the host presented first, and the one way a step can stop: equations per
case of `step`, the partial overlap as inequalities, and what a decoded packet can do. -/

namespace Sys2Proof.Machine

/-! ### The step, case by case (R7, R15, R60) -/

theorem step_of_inputs_nil {s : State} (h : s.inputs = []) : step s = .next s := by
  rw [step, h]
  rfl

theorem step_of_packet {s : State} {p : Packet} {rest : List HostInput}
    (h : s.inputs = .packet p :: rest) : step s = exec (decode p) (s.setInputs rest) := by
  rw [step, h]

theorem step_of_write {s : State} {a : Word} {v : Byte} {rest : List HostInput}
    (h : s.inputs = .write a v :: rest) :
    step s = .next ((s.setInputs rest).setMem (s.mem.write a.toNat v)) := by
  rw [step, h]
  rfl

theorem step_of_reset {s : State} {rest : List HostInput} (h : s.inputs = .reset :: rest) :
    step s = hostReset (s.setInputs rest) := by
  rw [step, h]

/-! ### The one way a command stops (R52 case (c)) -/

theorem partlyOverlap_eq_true_iff (a b n : Nat) :
    partlyOverlap a b n = true ↔ a ≠ b ∧ a < b + n ∧ b < a + n := by
  simp only [partlyOverlap, Bool.and_eq_true, decide_eq_true_iff]

/-- R52 case (c): `i` is an XFORM that passes every check of R134 in `s`, and whose regions partly
overlap. -/
def OverlapsPartlyIn (i : Instr) (s : State) : Prop :=
  s.phase = .ready ∧ ∃ src inOff count dst outOff, i = .xform src inOff count dst outOff ∧
    xformCause src inOff count dst outOff = none ∧
    partlyOverlap (regionStart src inOff) (regionStart dst outOff) count.toNat = true

/-- An XFORM answers, or its regions partly overlap and it is refused. -/
theorem exec_xform_next_or_refused (src : Desc) (inOff count : Word) (dst : Desc) (outOff : Word)
    (s : State) :
    (∃ t, exec (.xform src inOff count dst outOff) s = .next t) ∨
    (OverlapsPartlyIn (.xform src inOff count dst outOff) s ∧
      exec (.xform src inOff count dst outOff) s = .refused .partialOverlap) := by
  rcases xformWith_cases hardware src inOff count dst outOff s with
    ⟨_, h⟩ | ⟨hphase, hcause, ⟨hoverlap, h⟩ | ⟨-, h⟩⟩
  · exact .inl ⟨_, h⟩
  · exact .inr ⟨⟨hphase, _, _, _, _, _, rfl, hcause, hoverlap⟩, h⟩
  · exact .inl ⟨_, h⟩

/-- R12: what a packet decodes to answers, or is refused as a partial overlap. -/
theorem exec_decode_next_or_refused (p : Packet) (s : State) :
    (∃ t, exec (decode p) s = .next t) ∨
    (OverlapsPartlyIn (decode p) s ∧ exec (decode p) s = .refused .partialOverlap) := by
  rcases decode_cases p with ⟨key, nonce, h⟩ | ⟨src, inOff, count, dst, outOff, h⟩ | h | h <;> rw [h]
  case inl =>
    rcases execInit_cases key nonce s with ⟨_, h⟩ | ⟨-, -, h⟩
    all_goals exact .inl ⟨_, h⟩
  case inr.inl => exact exec_xform_next_or_refused src inOff count dst outOff s
  case inr.inr.inl =>
    rcases execDispose_cases s with ⟨-, h⟩ | ⟨-, h⟩
    all_goals exact .inl ⟨_, h⟩
  case inr.inr.inr => exact .inl ⟨_, rfl⟩

/-- R12: a step goes on, or the packet presented first is refused as a partial overlap. -/
theorem step_next_or_refused (s : State) :
    (∃ t, step s = .next t) ∨
    (∃ p rest, s.inputs = .packet p :: rest ∧ OverlapsPartlyIn (decode p) s ∧
      step s = .refused .partialOverlap) := by
  rcases step_cases s with ⟨-, h⟩ | ⟨p, rest, hin, h⟩ | ⟨_, _, _, -, h⟩ | ⟨_, -, h⟩
  · exact .inl ⟨_, h⟩
  · rw [h]
    rcases exec_decode_next_or_refused p (s.setInputs rest) with hnext | ⟨hoverlap, hrefused⟩
    · exact .inl hnext
    · exact .inr ⟨p, rest, hin, hoverlap, hrefused⟩
  · exact .inl ⟨_, h⟩
  · exact .inl ⟨_, h⟩

end Sys2Proof.Machine
end

