-- ==== Sys2Proof/Proofs/Scope.lean ====
section
/-! PROOFS. The statements of `spec/00_scope.md`: what one step does with what the host presented. -/

namespace Sys2Proof.Proofs

open Sys2Proof.Machine

/-- Settles O7: the packet case of `step`. -/
theorem stepRunsThePresentedPacket : Obligations.StepRunsThePresentedPacket :=
  fun _ _ _ hin => step_of_packet hin

/-- Settles O8: the empty and the write case of `step`, with the read-after-write law of the byte
space. -/
theorem idleAndHostWrite : Obligations.IdleAndHostWrite :=
  ⟨fun _ hin => step_of_inputs_nil hin,
    fun s a v _ hin hwf => ⟨s.mem.write a.toNat v, step_of_write hin, Memory.read_write hwf⟩⟩

/-- Settles O12: a step either goes on or is the refusal of a partial overlap. -/
theorem stepStopsOnlyOnPartialOverlap : Obligations.StepStopsOnlyOnPartialOverlap := by
  intro s
  rcases step_next_or_refused s with ⟨t, h⟩ | ⟨p, rest, hin, hoverlap, h⟩ <;> rw [h]
  · exact ⟨nofun, nofun⟩
  · refine ⟨nofun, fun r hr => ?_⟩
    cases hr
    obtain ⟨hphase, src, inOff, count, dst, outOff, hdec, hcause, hpart⟩ := hoverlap
    exact ⟨rfl, hphase, p, rest, src, inOff, count, dst, outOff, hin, hdec, hcause,
      (partlyOverlap_eq_true_iff _ _ _).1 hpart⟩

end Sys2Proof.Proofs
end

section
/-! SUPPORT. The moves of the machine: one constructor for each thing a step that goes on can have done,
with the state it leaves. The whole-machine rules are case analyses of it. -/

namespace Sys2Proof.Machine

/-! ### What the shared operations leave -/

/-- A result is at most one next state. -/
theorem next_unique {r : Result} {t u : State} (ht : r = .next t) (hu : r = .next u) : t = u :=
  Host.Outcome.next.inj (ht.symm.trans hu)

theorem getElem_zeroWords (i : Fin 16) : zeroWords[i] = 0 := by simp [zeroWords]

/-- R180: the block after reset is the block after power-on, with the byte space as it was. -/
theorem hostReset_eq (s : State) :
    hostReset s = .next { State.reset with mem := s.mem, inputs := s.inputs } := rfl

/-- R97: this hardware loads the words of a 32-byte key only (`KEY128_ENABLE = 0`). -/
theorem initWords_of_initCause_none {key nonce : Desc} (h : initCause hardware key nonce = none)
    (m : Memory) :
    initWords key nonce m = stateWords32 (m.readBytes key.base.toNat 32) (m.readBytes nonce.base.toNat 8) := by
  obtain ⟨-, -, hlen, -⟩ := (initCause_hardware_eq_none_iff key nonce).1 h
  exact if_pos hlen

/-- R97: INIT in its phase, with every check passed. -/
theorem execInit_of_initCause_none {key nonce : Desc} {s : State} (hphase : s.phase = .uninitialized)
    (h : initCause hardware key nonce = none) :
    execInit key nonce s = respond 0 ((s.setS (stateWords32 (s.mem.readBytes key.base.toNat 32)
      (s.mem.readBytes nonce.base.toNat 8))).setPhase .ready) := by
  rw [← initWords_of_initCause_none h]
  simp [execInit, initWith, runCommand, hphase, h, initEffect]

/-- R131: with `COUNT = 0` there is no chunk. -/
theorem xformLoop_zero (src dst : Nat) (s : State) : xformLoop src dst 0 (chunkCount 0) 0 s = s := rfl

/-- R48: the chunks of an accepted XFORM keep the byte space canonical. -/
theorem xformLoop_wf {src dst : Desc} {inOff count outOff : Word} {s : State} (hwf : Memory.wf s.mem)
    (hcause : xformCause src inOff count dst outOff = none)
    (hoverlap : partlyOverlap (regionStart src inOff) (regionStart dst outOff) count.toNat = false) :
    Memory.wf (xformLoop (regionStart src inOff) (regionStart dst outOff) count.toNat
      (chunkCount count.toNat) 0 s).mem := by
  obtain ⟨-, -, -, hdst, -, hout⟩ := (xformCause_eq_none_iff src inOff count dst outOff).1 hcause
  have hapart := (partlyOverlap_eq_false_iff _ _ _).1 hoverlap
  have htop : regionStart dst outOff + count.toNat ≤ addrSpace := by
    simp only [regionStart, addrSpace]
    omega
  exact (xformLoop_mem _ _ _ (by tauto) htop _ 0 s hwf (chunkCount_eq _).ge).1

/-! ### The moves -/

/-- What a step from `s` can do, and the state it then leaves. -/
inductive Move (s : State) : State → Prop where
  /-- R166: nothing is presented and the block waits. -/
  | wait (hin : s.inputs = []) : Move s s
  /-- R15: the host writes a byte. -/
  | write {a : Word} {v : Byte} {rest : List HostInput} (hin : s.inputs = .write a v :: rest) :
      Move s ((s.setInputs rest).setMem (s.mem.write a.toNat v))
  /-- R180: the host resets the block. -/
  | reset {rest : List HostInput} (hin : s.inputs = .reset :: rest) :
      Move s { State.reset with mem := s.mem, inputs := rest }
  /-- R164, R154: a packet is answered and nothing else happens: an error, or a DISPOSE in
  `Uninitialized`. -/
  | answer {p : Packet} {rest : List HostInput} {r : Response} (hin : s.inputs = .packet p :: rest) :
      Move s ((clearTransients (s.setInputs rest)).setRsp (some r))
  /-- R97: an INIT answered OK. -/
  | init {p : Packet} {rest : List HostInput} {key nonce : Desc} (hin : s.inputs = .packet p :: rest)
      (hdec : decode p = .init key nonce) (hphase : s.phase = .uninitialized)
      (hcause : initCause hardware key nonce = none) :
      Move s ((clearTransients (((s.setInputs rest).setS (initWords key nonce s.mem)).setPhase
        .ready)).setRsp (some ⟨.ok, 0⟩))
  /-- R131: an XFORM answered OK. -/
  | xform {p : Packet} {rest : List HostInput} {src dst : Desc} {inOff count outOff : Word}
      (hin : s.inputs = .packet p :: rest) (hdec : decode p = .xform src inOff count dst outOff)
      (hphase : s.phase = .ready) (hcause : xformCause src inOff count dst outOff = none)
      (hoverlap : partlyOverlap (regionStart src inOff) (regionStart dst outOff) count.toNat = false) :
      Move s ((clearTransients (xformLoop (regionStart src inOff) (regionStart dst outOff) count.toNat
        (chunkCount count.toNat) 0 (s.setInputs rest))).setRsp (some ⟨.ok, count⟩))
  /-- R151: a DISPOSE in `Ready` or `Disposed`. -/
  | dispose {p : Packet} {rest : List HostInput} (hin : s.inputs = .packet p :: rest)
      (hdec : decode p = .dispose) (hphase : s.phase ≠ .uninitialized) :
      Move s ((clearTransients (((s.setInputs rest).setS zeroWords).setPhase .disposed)).setRsp
        (some ⟨.ok, 0⟩))

/-- A packet that gets a next state made one of the four moves a packet can make. -/
theorem move_of_packet {s t : State} {p : Packet} {rest : List HostInput}
    (hin : s.inputs = .packet p :: rest) (h : exec (decode p) (s.setInputs rest) = .next t) :
    Move s t := by
  rcases decode_cases p with
    ⟨key, nonce, hdec⟩ | ⟨src, inOff, count, dst, outOff, hdec⟩ | hdec | hdec <;> rw [hdec] at h
  case inl =>
    rcases execInit_cases key nonce (s.setInputs rest) with ⟨k, he⟩ | ⟨hphase, hcause, he⟩
    · obtain rfl := next_unique he h
      exact .answer hin
    · obtain rfl := next_unique he h
      exact .init hin hdec hphase hcause
  case inr.inl =>
    rcases xformWith_cases hardware src inOff count dst outOff (s.setInputs rest) with
      ⟨k, he⟩ | ⟨hphase, hcause, ⟨-, he⟩ | ⟨hoverlap, he⟩⟩
    · obtain rfl := next_unique he h
      exact .answer hin
    · exact nomatch he.symm.trans h
    · obtain rfl := next_unique he h
      exact .xform hin hdec hphase hcause hoverlap
  case inr.inr.inl =>
    rcases execDispose_cases (s.setInputs rest) with ⟨-, he⟩ | ⟨hphase, he⟩
    · obtain rfl := next_unique he h
      exact .answer hin
    · obtain rfl := next_unique he h
      exact .dispose hin hdec hphase
  case inr.inr.inr =>
    obtain rfl := Host.Outcome.next.inj h
    exact .answer hin

/-- Every step that goes on is a move. -/
theorem move_of_step {s t : State} (h : step s = .next t) : Move s t := by
  rcases step_cases s with ⟨hin, hs⟩ | ⟨p, rest, hin, hs⟩ | ⟨a, v, rest, hin, hs⟩ | ⟨rest, hin, hs⟩
  · obtain rfl := next_unique hs h
    exact .wait hin
  · exact move_of_packet hin (hs.symm.trans h)
  · obtain rfl := next_unique hs h
    exact .write hin
  · obtain rfl := next_unique hs h
    exact .reset hin

/-! ### The invariant (R36) -/

/-- The words of a zeroised state meet R36 in any phase but `Ready`. -/
theorem State.Inv.of_zeroWords {s : State} (hwf : Memory.wf s.mem) (hS : s.S = zeroWords)
    (hphase : s.phase ≠ .ready) (hclear : s.X = zeroWords ∧ s.KS = zeroBlock ∧ s.opOut = .idle) :
    s.Inv where
  memWf := hwf
  zeroUnlessReady _ i := by rw [hS, getElem_zeroWords]
  sigmaWhenReady h := absurd h hphase
  noTransients := hclear

/-- R36 is kept by every move. -/
theorem Move.inv {s t : State} (h : Move s t) (hs : s.Inv) : t.Inv := by
  cases h with
  | wait => exact hs
  | write =>
    exact { hs with memWf := Memory.write_wf hs.memWf (BitVec.isLt _) }
  | reset => exact .of_zeroWords hs.memWf rfl nofun ⟨rfl, rfl, rfl⟩
  | answer => exact { hs with noTransients := ⟨rfl, rfl, rfl⟩ }
  | @init _ rest key nonce _ _ _ hcause =>
    rw [initWords_of_initCause_none hcause]
    exact ⟨hs.memWf, fun hphase => absurd rfl hphase, fun _ => ⟨rfl, rfl, rfl, rfl⟩, rfl, rfl, rfl⟩
  | @xform _ rest src dst inOff count outOff _ _ hphase hcause hoverlap =>
    obtain ⟨hphase', -, -, -, hword⟩ := xformLoop_fields (regionStart src inOff)
      (regionStart dst outOff) count.toNat (chunkCount count.toNat) 0 (s.setInputs rest)
    refine ⟨xformLoop_wf (s := s.setInputs rest) hs.memWf hcause hoverlap,
      fun hready => absurd (hphase'.trans hphase) hready, fun _ => ?_, rfl, rfl, rfl⟩
    obtain ⟨h0, h5, h10, h15⟩ := hs.sigmaWhenReady hphase
    exact ⟨(hword 0 (by decide) (by decide)).trans h0, (hword 5 (by decide) (by decide)).trans h5,
      (hword 10 (by decide) (by decide)).trans h10, (hword 15 (by decide) (by decide)).trans h15⟩
  | dispose => exact .of_zeroWords hs.memWf rfl nofun ⟨rfl, rfl, rfl⟩

end Sys2Proof.Machine
end

section
/-! SUPPORT. No command reads the transients or the response port (R32): the states that agree on what
a command keeps give the same outcome. -/

namespace Sys2Proof.Machine

/-- Two states agree on everything a command reads: all but `X`, `KS`, `opOut` and the response
port. -/
structure AgreeOnKept (s t : State) : Prop where
  S : s.S = t.S
  phase : s.phase = t.phase
  mem : s.mem = t.mem
  inputs : s.inputs = t.inputs

section
variable {s t : State}

theorem answer_congr (h : AgreeOnKept s t) (r : Response) :
    (clearTransients s).setRsp (some r) = (clearTransients t).setRsp (some r) := by
  obtain ⟨hS, hphase, hmem, hinputs⟩ := h
  simp only [clearTransients, State.setX, State.setKS, State.setOpOut, State.setRsp, hS, hphase, hmem,
    hinputs]

theorem respond_congr (h : AgreeOnKept s t) (n : Word) : respond n s = respond n t :=
  congrArg Host.Outcome.next (answer_congr h _)

theorem raise_congr (h : AgreeOnKept s t) (k : ErrorKind) : raise k s = raise k t :=
  congrArg Host.Outcome.next (answer_congr h _)

theorem runCommand_congr (h : AgreeOnKept s t) {cfg : Config} {ok : Bool} {c : Option ArgCause}
    {f g : State → Result} (hfg : f s = g t) :
    runCommand cfg ok c f s = runCommand cfg ok c g t := by
  unfold runCommand
  cases firstError cfg.errOrder ok c with
  | some k => exact raise_congr h k
  | none => exact hfg

theorem AgreeOnKept.setS_setPhase (h : AgreeOnKept s t) (S : Words) (p : Phase) :
    AgreeOnKept ((s.setS S).setPhase p) ((t.setS S).setPhase p) :=
  ⟨rfl, rfl, h.mem, h.inputs⟩

theorem AgreeOnKept.runBlock (h : AgreeOnKept s t) (a b n : Nat) :
    AgreeOnKept (runBlock a b n s) (runBlock a b n t) := by
  constructor <;> simp [h.S, h.phase, h.mem, h.inputs]

theorem AgreeOnKept.xformLoop (h : AgreeOnKept s t) (src dst count fuel pos : Nat) :
    AgreeOnKept (xformLoop src dst count fuel pos s) (xformLoop src dst count fuel pos t) := by
  induction fuel generalizing pos s t with
  | zero => exact h
  | succ fuel ih =>
    unfold Machine.xformLoop
    split
    · exact ih (h.runBlock _ _ _) _
    · exact h

theorem initWith_congr (h : AgreeOnKept s t) (cfg : Config) (key nonce : Desc) :
    initWith cfg key nonce s = initWith cfg key nonce t := by
  unfold initWith
  rw [h.phase]
  refine runCommand_congr h ?_
  unfold initEffect
  rw [h.mem]
  exact respond_congr (h.setS_setPhase _ _) 0

theorem xformWith_congr (h : AgreeOnKept s t) (cfg : Config) (src : Desc) (inOff count : Word)
    (dst : Desc) (outOff : Word) :
    xformWith cfg src inOff count dst outOff s = xformWith cfg src inOff count dst outOff t := by
  unfold xformWith
  rw [h.phase]
  refine runCommand_congr h ?_
  unfold xformEffect
  dsimp only
  split
  · rfl
  · exact respond_congr (h.xformLoop _ _ _ _ _) count

theorem execDispose_congr (h : AgreeOnKept s t) : execDispose s = execDispose t := by
  unfold execDispose
  rw [h.phase]
  split
  · exact respond_congr h 0
  · exact respond_congr (h.setS_setPhase _ _) 0
  · exact respond_congr (h.setS_setPhase _ _) 0

/-- R32: a command's outcome depends on what commands keep, and on nothing else. -/
theorem exec_congr_of_isCommand {i : Instr} (hi : i.isCommand = true) (h : AgreeOnKept s t) :
    exec i s = exec i t := by
  cases i with
  | init key nonce => exact initWith_congr h _ key nonce
  | xform src inOff count dst outOff => exact xformWith_congr h _ src inOff count dst outOff
  | dispose => exact execDispose_congr h
  | final src inOff count outBase => exact xformWith_congr h _ src inOff count _ 0
  | illegal => exact raise_congr h _
  | _ => exact nomatch hi

end

/-- R134, R52: an XFORM that gets a next state ends by answering, with the transients cleared. -/
theorem xformWith_answers {cfg : Config} {src dst : Desc} {inOff count outOff : Word} {s t : State}
    (h : xformWith cfg src inOff count dst outOff s = .next t) :
    ∃ u r, t = (clearTransients u).setRsp (some r) := by
  rcases xformWith_cases cfg src inOff count dst outOff s with ⟨_, he⟩ | ⟨-, -, ⟨-, he⟩ | ⟨-, he⟩⟩
  · exact ⟨_, _, next_unique h he⟩
  · exact nomatch h.symm.trans he
  · exact ⟨_, _, next_unique h he⟩

/-- R60, R32: a command that gets a next state ends by answering, with the transients cleared. -/
theorem exec_command_answers {i : Instr} {s t : State} (hi : i.isCommand = true)
    (h : exec i s = .next t) : ∃ u r, t = (clearTransients u).setRsp (some r) := by
  cases i with
  | init key nonce =>
    rcases execInit_cases key nonce s with ⟨_, he⟩ | ⟨-, -, he⟩
    all_goals exact ⟨_, _, next_unique h he⟩
  | xform => exact xformWith_answers h
  | dispose =>
    rcases execDispose_cases s with ⟨-, he⟩ | ⟨-, he⟩
    all_goals exact ⟨_, _, next_unique h he⟩
  | final => exact xformWith_answers h
  | illegal => exact ⟨_, _, (Host.Outcome.next.inj h).symm⟩
  | _ => exact nomatch hi

/-- R132: a BLOCK by itself that gets a next state ran. -/
theorem execBlock_next {a b : Word} {n : Nat} {s t : State} (h : execBlock a b n s = .next t) :
    t = runBlock a.toNat b.toNat n s := by
  unfold execBlock at h
  split_ifs at h
  exact (Host.Outcome.next.inj h).symm

/-- R29, R30: BLOCK makes `X` and `KS` anew. -/
theorem execBlock_transients (a b : Word) (n : Nat) (s : State) (x : Words) (ks : KeyBlock)
    (o : OpOut) : execBlock a b n { s with X := x, KS := ks, opOut := o } = execBlock a b n s := rfl

end Sys2Proof.Machine
end

section
/-! PROOFS. The statements of `spec/10_state.md`: reset, the invariant, and what the state's words, its
phase and its transients can do. -/

namespace Sys2Proof.Proofs

open Sys2Proof.Machine

/-- Settles O14: R36 is kept by every move. -/
theorem invKeptByStep : Obligations.InvKeptByStep :=
  fun _ _ hs h => (move_of_step h).inv hs

/-- Settles O15: of the moves that start and end in `Ready` only XFORM writes `S`, and its chunks write
the counter words only. -/
theorem onlyCounterWordsChangeWhileReady : Obligations.OnlyCounterWordsChangeWhileReady := by
  intro s t i h hs ht h8 h9
  cases move_of_step h with
  | wait | write | answer => rfl
  | reset | dispose => exact nomatch ht
  | init _ _ hphase => exact nomatch hs.symm.trans hphase
  | xform =>
    obtain ⟨-, -, -, -, hword⟩ := xformLoop_fields _ _ _ _ _ _
    exact hword i h8 h9

/-- Settles O16: an XFORM with `COUNT = 0` has no chunk, and no other move from `Ready` to `Ready`
writes `S`. -/
theorem onlyXformMovesTheCounter : Obligations.OnlyXformMovesTheCounter := by
  intro s t h hs ht hne
  cases move_of_step h with
  | wait | write | answer => exact absurd rfl hne
  | reset | dispose => exact nomatch ht
  | init _ _ hphase => exact nomatch hs.symm.trans hphase
  | @xform p rest src dst inOff count outOff hin hdec =>
    refine ⟨p, rest, src, inOff, count, dst, outOff, hin, hdec, Nat.pos_of_ne_zero fun h0 => hne ?_, rfl⟩
    simp [h0, xformLoop_zero]

/-- Settles O17: an INIT, a DISPOSE out of `Ready` and reset are the moves that write `PHASE`. -/
theorem phaseChangesOnlyAlongItsEdges : Obligations.PhaseChangesOnlyAlongItsEdges := by
  intro s t h hne
  cases move_of_step h with
  | wait | write | answer => exact absurd rfl hne
  | reset hin => exact .inr (.inr ⟨_, hin, rfl⟩)
  | init hin hdec hphase => exact .inl ⟨_, _, _, _, hin, hdec, hphase, rfl, rfl⟩
  | xform =>
    obtain ⟨hphase, -⟩ := xformLoop_fields _ _ _ _ _ _
    exact absurd hphase hne
  | dispose hin hdec hphase =>
    refine .inr (.inl ⟨_, _, hin, hdec, ?_, rfl⟩)
    cases hs : s.phase with
    | uninitialized => exact absurd hs hphase
    | ready => rfl
    | disposed => exact absurd hs.symm hne

/-- Settles O23: commands depend on what they keep only, BLOCK makes `X` and `KS` anew, and both end
with them cleared. -/
theorem transientsDoNotSurvive : Obligations.TransientsDoNotSurvive := by
  refine fun i s => ⟨fun hi x ks o r => exec_congr_of_isCommand hi ⟨rfl, rfl, rfl, rfl⟩, ?_, ?_⟩
  · rintro a b n rfl x ks o
    exact execBlock_transients a b n s x ks o
  · rintro (hi | ⟨a, b, n, rfl⟩) t h
    · obtain ⟨u, r, rfl⟩ := exec_command_answers hi h
      exact ⟨rfl, rfl, rfl⟩
    · obtain rfl := execBlock_next h
      exact ⟨rfl, rfl, rfl⟩

/-- Settles O40: INIT loads the words of a 32-byte key, each from the bytes of the byte space. -/
theorem initEffect : Obligations.InitEffect := by
  intro key nonce s hphase hkey hnonce hlen hnlen hkeyTop hnonceTop
  have hcause : initCause hardware key nonce = none :=
    (initCause_hardware_eq_none_iff key nonce).2 ⟨hkey, hnonce, hlen, hnlen, hkeyTop, hnonceTop⟩
  refine ⟨_, ⟨execInit_of_initCause_none hphase hcause, rfl⟩, rfl, rfl, rfl, rfl, rfl, rfl, rfl, rfl, rfl,
    fun j k => ?_, fun j k => ?_, fun j k => ?_⟩
  · exact (congrArg _ (stateWords32_keyLo _ _ j)).trans (byte_of_loaded _ _ _ _ _ k.isLt (by omega))
  · refine (congrArg _ (stateWords32_keyHi _ _ j)).trans ?_
    rw [byte_of_loaded _ _ _ _ _ k.isLt (by omega), ← Nat.add_assoc key.base.toNat]
  · exact (congrArg _ (stateWords32_nonce _ _ j)).trans (byte_of_loaded _ _ _ _ _ k.isLt (by omega))

/-- Settles O44: the words of the counter's increment. -/
theorem ctrIncEffect : Obligations.CtrIncEffect := by
  intro s
  refine ⟨incCounter s.S, rfl, counter_incCounter _, incCounter_lo _, fun h => ?_, fun h => ?_,
    fun i h8 h9 => ?_⟩
  · rw [incCounter_hi, if_neg h]
  · rw [incCounter_hi, if_pos h]
  · rw [getElem_incCounter, if_neg h8, if_neg fun h => h9 h.1]

/-- Settles O9: the reset case of `step`, and the waiting step after it. -/
theorem resetInput : Obligations.ResetInput := by
  intro s rest hin
  exact ⟨_, (step_of_reset hin).trans (hostReset_eq _), getElem_zeroWords, rfl, rfl, rfl, rfl, rfl,
    fun hrest => step_of_inputs_nil hrest⟩

/-- Settles O10: the fields of the reset state. -/
theorem resetState : Obligations.ResetState :=
  ⟨getElem_zeroWords, rfl, rfl, rfl, rfl, rfl⟩

/-- Settles O13: after reset the words are zero and the byte space lists nothing. -/
theorem invAtReset : Obligations.InvAtReset :=
  .of_zeroWords Memory.wf_nil rfl nofun ⟨rfl, rfl, rfl⟩

end Sys2Proof.Proofs
end

section
/-! SUPPORT. What the instructions do to the byte space and to what the host has presented (R48): the
forms that store nothing, the two forms of XFORM and of BLOCK with their checks passed or not, and INIT
over another byte space. -/

namespace Sys2Proof.Machine

/-! ### The forms that store nothing (R48) -/

/-- An operation with an operand domain that goes on did its operation. -/
theorem next_of_guard {c : Prop} [Decidable c] {u t : State} {r : Refusal}
    (h : (if c then (.next u : Result) else .refused r) = .next t) : u = t := by
  split_ifs at h
  exact Host.Outcome.next.inj h

/-- A state that goes on with the byte space and the presented inputs of `s` keeps them. -/
theorem frame_of_next {s t u : State} (h : (.next u : Result) = .next t)
    (hu : u.mem = s.mem ∧ u.inputs = s.inputs) : t.mem = s.mem ∧ t.inputs = s.inputs := by
  obtain rfl := Host.Outcome.next.inj h
  exact hu

/-- R48: a form that stores nothing leaves the byte space, and what the host has presented, as they
were. -/
theorem exec_frame_of_not_mayStore {i : Instr} {s t : State} (hi : i.mayStore = false)
    (h : exec i s = .next t) : t.mem = s.mem ∧ t.inputs = s.inputs := by
  cases i with
  | xform | final | block => exact nomatch hi
  | init key nonce =>
    rcases execInit_cases key nonce s with ⟨_, he⟩ | ⟨-, -, he⟩
    all_goals exact frame_of_next (he.symm.trans h) ⟨rfl, rfl⟩
  | dispose =>
    rcases execDispose_cases s with ⟨-, he⟩ | ⟨-, he⟩
    all_goals exact frame_of_next (he.symm.trans h) ⟨rfl, rfl⟩
  | rotl32 | le32Load | le32Store | qrstep | quarterround =>
    obtain rfl := next_of_guard h
    exact ⟨rfl, rfl⟩
  | permute => exact frame_of_next h ⟨permute_mem s, permute_inputs s⟩
  | columnround | rowround | doubleround =>
    exact frame_of_next h ⟨State.setX_mem s _, State.setX_inputs s _⟩
  | illegal | add32 | add1 | xor32 | ctrInc | zeroize => exact frame_of_next h ⟨rfl, rfl⟩

/-! ### XFORM (R131, R134) -/

section
variable {src dst : Desc} {inOff count outOff : Word} {s t : State}

theorem xformWith_inputs {cfg : Config} (h : xformWith cfg src inOff count dst outOff s = .next t) :
    t.inputs = s.inputs := by
  rcases xformWith_cases cfg src inOff count dst outOff s with ⟨_, he⟩ | ⟨-, -, ⟨-, he⟩ | ⟨-, he⟩⟩
  · obtain rfl := next_unique he h
    rfl
  · exact nomatch he.symm.trans h
  · obtain rfl := next_unique he h
    obtain ⟨-, -, hinputs, -⟩ := xformLoop_fields _ _ _ _ _ _
    exact hinputs

/-- R134: XFORM in its phase, with every check passed, is its effect. -/
theorem execXform_of_xformCause_none (hphase : s.phase = .ready)
    (hcause : xformCause src inOff count dst outOff = none) :
    execXform src inOff count dst outOff s = xformEffect src inOff count dst outOff s := by
  simp [execXform, xformWith, runCommand, hphase, hcause]

theorem xformEffect_of_partlyOverlap
    (h : partlyOverlap (regionStart src inOff) (regionStart dst outOff) count.toNat = true) :
    xformEffect src inOff count dst outOff s = .refused .partialOverlap :=
  if_pos h

theorem xformEffect_of_not_partlyOverlap
    (h : partlyOverlap (regionStart src inOff) (regionStart dst outOff) count.toNat = false) :
    xformEffect src inOff count dst outOff s =
      respond count (xformLoop (regionStart src inOff) (regionStart dst outOff) count.toNat
        (chunkCount count.toNat) 0 s) :=
  if_neg (Bool.eq_false_iff.1 h)

/-- R41, R42: the output region of an accepted XFORM ends inside the byte space. -/
theorem outputRegion_le_addrSpace (hcause : xformCause src inOff count dst outOff = none) :
    regionStart dst outOff + count.toNat ≤ addrSpace := by
  obtain ⟨-, -, -, hdst, -, hout⟩ := (xformCause_eq_none_iff src inOff count dst outOff).1 hcause
  simp only [regionStart, addrSpace]
  omega
end

/-- R131, R143: the byte space after all the chunks: output byte `k` is input byte `k` XOR byte `k` of
the stream, and every other byte is as before. -/
theorem read_xformLoop {src dst count : Nat} {s : State} (hwf : Memory.wf s.mem)
    (hoverlap : partlyOverlap src dst count = false) (htop : dst + count ≤ addrSpace) (x : Nat) :
    (xformLoop src dst count (chunkCount count) 0 s).mem.read x =
      if dst ≤ x ∧ x < dst + count then s.mem.read (src + (x - dst)) ^^^ streamByte s.S (x - dst)
      else s.mem.read x := by
  have hapart := (partlyOverlap_eq_false_iff _ _ _).1 hoverlap
  obtain ⟨-, hread⟩ := xformLoop_mem src dst count (by tauto) htop (chunkCount count) 0 s hwf
    (chunkCount_eq count).ge
  simpa only [Nat.add_zero, Nat.sub_zero, loopByte_eq_streamByte] using hread x

/-- R131, R133: the counter after all the chunks. -/
theorem counter_xformLoop (src dst count : Nat) (s : State) :
    counter (xformLoop src dst count (chunkCount count) 0 s).S =
      (counter s.S + (count + 63) / 64) % 2 ^ 64 := by
  obtain ⟨-, -, -, hcounter, -⟩ := xformLoop_fields src dst count (chunkCount count) 0 s
  rwa [← chunkCount_eq, min_self] at hcounter

/-! ### BLOCK by itself (R132) -/

section
variable {a b : Word} {n : Nat} {s : State}

theorem execBlock_blockCount (h : ¬(1 ≤ n ∧ n ≤ 64)) : execBlock a b n s = .refused .blockCount :=
  if_pos h

theorem execBlock_noSuchAddress (hn : 1 ≤ n ∧ n ≤ 64)
    (h : ¬(a.toNat + n ≤ addrSpace ∧ b.toNat + n ≤ addrSpace)) :
    execBlock a b n s = .fault .noSuchAddress :=
  (if_neg (not_not.2 hn)).trans (if_pos h)

theorem execBlock_of_bounds (hn : 1 ≤ n ∧ n ≤ 64)
    (htop : a.toNat + n ≤ addrSpace ∧ b.toNat + n ≤ addrSpace) :
    execBlock a b n s =
      if partlyOverlap a.toNat b.toNat n then .refused .partialOverlap
      else .next (runBlock a.toNat b.toNat n s) :=
  (if_neg (not_not.2 hn)).trans (if_neg (not_not.2 htop))
end

/-! ### A command over another byte space -/

/-- A command goes on alike over another byte space when its effect does: its checks read no byte. -/
theorem runCommand_setMem {cfg : Config} {ok : Bool} {c : Option ArgCause} {f : State → Result}
    {s t : State} {m : Memory} (h : runCommand cfg ok c f s = .next t)
    (hf : c = none → f s = .next t → f (s.setMem m) = .next (t.setMem m)) :
    runCommand cfg ok c f (s.setMem m) = .next (t.setMem m) := by
  rcases runCommand_cases cfg ok c f s with ⟨k, hk, he⟩ | ⟨rfl, rfl, he⟩
  · obtain rfl := next_unique he h
    simp only [runCommand, hk]
    rfl
  · simpa only [runCommand, firstError_none] using hf rfl (he.symm.trans h)

/-- R98, R101: INIT goes on alike over a byte space that holds the same key and nonce. -/
theorem execInit_setMem {key nonce : Desc} {s t : State} {m : Memory}
    (h : execInit key nonce s = .next t)
    (hwords : initCause hardware key nonce = none →
      initWords key nonce m = initWords key nonce s.mem) :
    execInit key nonce (s.setMem m) = .next (t.setMem m) := by
  refine runCommand_setMem h fun hcause he => ?_
  obtain rfl := Host.Outcome.next.inj he
  simp only [initEffect, State.setMem_mem, hwords hcause]
  rfl

end Sys2Proof.Machine
end

section
/-! PROOFS. The statements of `spec/20_memory.md`: which bytes INIT reads, which bytes BLOCK and XFORM
write, and where they stop. -/

namespace Sys2Proof.Proofs

open Sys2Proof.Machine

/-- Settles O24: the forms that store nothing keep the byte space, and the storing forms keep what the
host has presented. -/
theorem onlyTheTransformStores : Obligations.OnlyTheTransformStores := by
  intro i s t h
  cases hi : i.mayStore with
  | false =>
    obtain ⟨hmem, hinputs⟩ := exec_frame_of_not_mayStore hi h
    exact ⟨hinputs, fun _ a => by rw [hmem]⟩
  | true =>
    refine ⟨?_, nofun⟩
    cases i with
    | xform | final => exact xformWith_inputs h
    | block =>
      obtain rfl := execBlock_next h
      exact runBlock_inputs _ _ _ s
    | _ => exact nomatch hi

/-- Settles O42: the words INIT loads are those of the 32 key bytes and the 8 nonce bytes. -/
theorem initReadsOnlyKeyAndNonce : Obligations.InitReadsOnlyKeyAndNonce := by
  intro key nonce s t m h hkey hnonce
  refine execInit_setMem h fun hcause => ?_
  rw [initWords_of_initCause_none hcause, initWords_of_initCause_none hcause,
    Memory.readBytes_congr hkey, Memory.readBytes_congr hnonce]

/-- Settles O45: with its checks passed BLOCK is `runBlock`, whose bytes are those of `xorBytes`. -/
theorem blockEffect : Obligations.BlockEffect := by
  intro a b n s hwf hlo hhi ha hb hapart
  have hapart' : a.toNat = b.toNat ∨ a.toNat + n ≤ b.toNat ∨ b.toNat + n ≤ a.toNat :=
    hapart.imp_left (congrArg BitVec.toNat)
  have hoverlap : partlyOverlap a.toNat b.toNat n = false :=
    (partlyOverlap_eq_false_iff _ _ _).2 (by tauto)
  have hread := read_xorBytes (keystream s.S) a.toNat b.toNat n hwf hb hapart'
  refine ⟨runBlock a.toNat b.toNat n s, ?_, fun j hj hjn => ?_, fun x hx => ?_, runBlock_S _ _ _ s,
    runBlock_phase _ _ _ s, runBlock_rsp _ _ _ s, runBlock_inputs _ _ _ s⟩
  · exact (execBlock_of_bounds ⟨hlo, hhi⟩ ⟨ha, hb⟩).trans (if_neg (Bool.eq_false_iff.1 hoverlap))
  · rw [runBlock_mem, hread, if_pos (by omega), Nat.add_sub_cancel_left, ksByte_eq _ _ hj]
  · rw [runBlock_mem, hread, if_neg (by omega)]

/-- Settles O46: the three checks of BLOCK, in order. -/
theorem blockStops : Obligations.BlockStops := by
  intro a b n s
  refine ⟨fun h => ?_, fun hlo hhi h => ?_, fun hlo hhi ha hb hne hab hba => ?_⟩
  · exact execBlock_blockCount (by omega)
  · exact execBlock_noSuchAddress ⟨hlo, hhi⟩ (by simp only [addrSpace]; omega)
  · have hne' : a.toNat ≠ b.toNat := fun h => hne (BitVec.eq_of_toNat_eq h)
    exact (execBlock_of_bounds ⟨hlo, hhi⟩ ⟨ha, hb⟩).trans
      (if_pos ((partlyOverlap_eq_true_iff _ _ _).2 ⟨hne', hab, hba⟩))

/-- Settles O47: an accepted XFORM is its loop over the chunks. -/
theorem xformEffect : Obligations.XformEffect := by
  intro src inOff count dst outOff s hwf hphase hsrc hdst hsrcTop hdstTop hin hout hapart
  have hcause : xformCause src inOff count dst outOff = none :=
    (xformCause_eq_none_iff _ _ _ _ _).2 ⟨hsrc, hdst, hsrcTop, hdstTop, hin, hout⟩
  have hoverlap : partlyOverlap (regionStart src inOff) (regionStart dst outOff) count.toNat = false := by
    rw [partlyOverlap_eq_false_iff]
    rcases hapart with h | h | h | rfl
    · exact .inl h
    · exact .inr (.inr h)
    · exact .inr (.inl h)
    · simpa using .inr (Nat.le_total _ _)
  have hread := read_xformLoop hwf hoverlap (outputRegion_le_addrSpace hcause)
  obtain ⟨hphase', -, hinputs, -, hword⟩ := xformLoop_fields (regionStart src inOff)
    (regionStart dst outOff) count.toNat (chunkCount count.toNat) 0 s
  refine ⟨_, ⟨(execXform_of_xformCause_none hphase hcause).trans
    (xformEffect_of_not_partlyOverlap hoverlap), rfl⟩, fun k hk => ?_, fun x hx => ?_,
    counter_xformLoop _ _ _ s, hword, hphase', hinputs⟩
  · refine (hread _).trans ?_
    rw [if_pos (by omega), Nat.add_sub_cancel_left]
  · exact (hread x).trans (if_neg (by omega))

/-- Settles O49: after its checks an XFORM first looks for a partial overlap. -/
theorem partialOverlapIsRefused : Obligations.PartialOverlapIsRefused := by
  intro src inOff count dst outOff s hphase hcause hne hlt hgt
  exact (execXform_of_xformCause_none hphase hcause).trans
    (xformEffect_of_partlyOverlap ((partlyOverlap_eq_true_iff _ _ _).2 ⟨hne, hlt, hgt⟩))

end Sys2Proof.Proofs
end

section
/-! SUPPORT. The header word (R63) and the decoder. A header that agrees with a row under the mask of
R71 is `header` of its own `VALID` bits, the illegal headers of R70 are an arithmetic condition on the
word, and so `decode` has one equation for each row of the opcode table and one for an illegal packet. -/

namespace Sys2Proof

/-! ### The fields of a header word (R63) -/

theorem toNat_headerOp (w : Word) : (headerOp w).toNat = w.toNat % 8 := by
  simp [headerOp, BitVec.extractLsb'_toNat]

theorem toNat_headerReservedLo (w : Word) : (headerReservedLo w).toNat = w.toNat / 8 % 32 := by
  simp [headerReservedLo, BitVec.extractLsb'_toNat, Nat.shiftRight_eq_div_pow]

theorem toNat_headerReservedHi (w : Word) : (headerReservedHi w).toNat = w.toNat / 1024 := by
  have hlt := w.isLt
  simp only [headerReservedHi, BitVec.extractLsb'_toNat, Nat.shiftRight_eq_div_pow]
  omega

theorem headerAValid_iff (w : Word) : headerAValid w = true ↔ w.toNat / 256 % 2 = 1 := by
  simp [headerAValid, BitVec.getLsbD, Nat.testBit_eq_decide_div_mod_eq]

theorem headerBValid_iff (w : Word) : headerBValid w = true ↔ w.toNat / 512 % 2 = 1 := by
  simp [headerBValid, BitVec.getLsbD, Nat.testBit_eq_decide_div_mod_eq]

/-! ### The headers of the rows (R63, R71) -/

/-- R71: the mask covers every bit of `W0` but the two `VALID` bits. -/
theorem header_of_and_mask {w op : Word} (h : w &&& 0xFFFFFCFF = op) :
    header op (headerAValid w) (headerBValid w) = w := by
  have h8 : (if headerAValid w then 0x100 else 0) = w &&& 0x100 := (BitVec.and_twoPow w 8).symm
  have h9 : (if headerBValid w then 0x200 else 0) = w &&& 0x200 := (BitVec.and_twoPow w 9).symm
  calc header op (headerAValid w) (headerBValid w)
      = w &&& 0xFFFFFCFF ||| w &&& 0x100 ||| w &&& 0x200 := by rw [header, h8, h9, h]
    _ = w &&& BitVec.allOnes 32 := by rw [← BitVec.and_or_distrib_left, ← BitVec.and_or_distrib_left]; rfl
    _ = w := BitVec.and_allOnes

/-! ### The illegal headers (R70) -/

/-- R70: the headers of illegal packets, as arithmetic on the word: `OP` reserved, a reserved bit set,
or DISPOSE with a `VALID` bit. -/
def IllegalHeader (w : Word) : Prop :=
  w.toNat % 8 = 0 ∨ 4 ≤ w.toNat % 8 ∨ w.toNat / 8 % 32 ≠ 0 ∨ 1024 ≤ w.toNat ∨
    (w.toNat % 8 = 3 ∧ w.toNat / 256 % 4 ≠ 0)

theorem illegalReason_eq_none_iff (p : Packet) : illegalReason p = none ↔ ¬IllegalHeader p[0] := by
  simp only [illegalReason, Machine.ite_some_eq_none, and_true, ne_eq, BitVec.toNat_eq, toNat_headerOp,
    toNat_headerReservedLo, toNat_headerReservedHi, headerAValid_iff, headerBValid_iff,
    BitVec.reduceToNat, IllegalHeader]
  omega

/-- R63, R71: the fields of the header the host writes for INIT (`op = 1`) and XFORM (`op = 2`). -/
theorem header_fields {op : Word} (hop : op = 1 ∨ op = 2) (aValid bValid : Bool) :
    header op aValid bValid &&& 0xFFFFFCFF = op ∧
    headerAValid (header op aValid bValid) = aValid ∧
    headerBValid (header op aValid bValid) = bValid ∧
    headerOp (header op aValid bValid) = op.setWidth 3 ∧ ¬IllegalHeader (header op aValid bValid) := by
  unfold IllegalHeader
  rcases hop with rfl | rfl
  all_goals revert aValid bValid; decide

/-- R70, R71: a header that agrees with INIT (`op = 1`) or XFORM (`op = 2`) under the mask is legal and
has that row's `OP`. -/
theorem legal_of_and_mask {w op : Word} (hop : op = 1 ∨ op = 2) (h : w &&& 0xFFFFFCFF = op) :
    ¬IllegalHeader w ∧ headerOp w = op.setWidth 3 := by
  obtain ⟨-, -, -, hopBits, hlegal⟩ := header_fields hop (headerAValid w) (headerBValid w)
  rw [header_of_and_mask h] at hopBits hlegal
  exact ⟨hlegal, hopBits⟩

/-- R70, R71: the header of a packet belongs to one of the three rows, or is illegal. -/
theorem header_cases (w : Word) :
    w &&& 0xFFFFFCFF = 1 ∨ w &&& 0xFFFFFCFF = 2 ∨ w = 3 ∨ IllegalHeader w := by
  by_cases h : IllegalHeader w
  · exact .inr (.inr (.inr h))
  · have hw : w = 1 ∨ w = 0x101 ∨ w = 0x201 ∨ w = 0x301 ∨ w = 2 ∨ w = 0x102 ∨ w = 0x202 ∨
        w = 0x302 ∨ w = 3 := by
      unfold IllegalHeader at h
      bv_omega
    have hrow : w &&& 0xFFFFFCFF = 1 ∨ w &&& 0xFFFFFCFF = 2 ∨ w = 3 := by
      rcases hw with rfl | rfl | rfl | rfl | rfl | rfl | rfl | rfl | rfl
      all_goals decide
    tauto

/-- R71: the row ILLEGAL is the headers that match none of the three rows. -/
theorem headerRow_eq_none_iff (w : Word) :
    headerRow w = none ↔ w &&& 0xFFFFFCFF ≠ 1 ∧ w &&& 0xFFFFFCFF ≠ 2 ∧ w ≠ 3 := by
  have hall : w &&& 0xFFFFFFFF = w := BitVec.and_allOnes
  simp only [headerRow, Machine.ite_some_eq_none, TableRow.hits, TableRow.mask, TableRow.matchWord,
    beq_iff_eq, hall, and_true, ne_eq]

theorem illegalHeader_of_no_row {w : Word} (h1 : w &&& 0xFFFFFCFF ≠ 1) (h2 : w &&& 0xFFFFFCFF ≠ 2)
    (h3 : w ≠ 3) : IllegalHeader w := by
  simpa only [h1, h2, h3, false_or] using header_cases w

/-! ### The decoder, row by row (R71) -/

section
variable {p : Packet}

theorem decode_of_init_row (h : p[0] &&& 0xFFFFFCFF = 1) :
    decode p = .init ⟨headerAValid p[0], p[1], p[2]⟩ ⟨headerBValid p[0], p[3], p[4]⟩ := by
  obtain ⟨hlegal, hop⟩ := legal_of_and_mask (.inl rfl) h
  rw [decode, (illegalReason_eq_none_iff p).2 hlegal]
  exact if_pos hop

theorem decode_of_xform_row (h : p[0] &&& 0xFFFFFCFF = 2) :
    decode p = .xform ⟨headerAValid p[0], p[1], p[2]⟩ p[3] p[4] ⟨headerBValid p[0], p[5], p[6]⟩ p[7] := by
  obtain ⟨hlegal, hop⟩ := legal_of_and_mask (.inr rfl) h
  rw [decode, (illegalReason_eq_none_iff p).2 hlegal]
  simp [hop]

theorem decode_of_dispose_row (h : p[0] = 3) : decode p = .dispose := by
  have hlegal : ¬IllegalHeader p[0] := by rw [h, IllegalHeader]; decide
  rw [decode, (illegalReason_eq_none_iff p).2 hlegal, h]
  rfl

theorem decode_of_illegalHeader (h : IllegalHeader p[0]) : decode p = .illegal p := by
  unfold decode
  split
  · rfl
  · next hnone => exact absurd h ((illegalReason_eq_none_iff p).1 hnone)

theorem decode_isCommand (p : Packet) : (decode p).isCommand = true := by
  rcases Machine.decode_cases p with ⟨_, _, h⟩ | ⟨_, _, _, _, _, h⟩ | h | h
  all_goals rw [h]; rfl
end

/-! ### The decoder on an encoded command (R64 to R66) -/

theorem decode_encodeInit (key nonce : Desc) : decode (encodeInit key nonce) = .init key nonce := by
  obtain ⟨hrow, hkey, hnonce, -⟩ := header_fields (.inl rfl) key.valid nonce.valid
  refine (decode_of_init_row hrow).trans ?_
  exact congrArg₂ (fun a b => Instr.init ⟨a, key.base, key.len⟩ ⟨b, nonce.base, nonce.len⟩) hkey hnonce

theorem decode_encodeXform (src : Desc) (inOff count : Word) (dst : Desc) (outOff : Word) :
    decode (encodeXform src inOff count dst outOff) = .xform src inOff count dst outOff := by
  obtain ⟨hrow, hsrc, hdst, -⟩ := header_fields (.inr rfl) src.valid dst.valid
  refine (decode_of_xform_row hrow).trans ?_
  exact congrArg₂ (fun a b => Instr.xform ⟨a, src.base, src.len⟩ inOff count ⟨b, dst.base, dst.len⟩ outOff)
    hsrc hdst

/-- R65, R71: an XFORM packet uses all its words, so the packet written from them is the packet. -/
theorem encodeXform_words {p : Packet} (h : p[0] &&& 0xFFFFFCFF = 2) :
    encodeXform ⟨headerAValid p[0], p[1], p[2]⟩ p[3] p[4] ⟨headerBValid p[0], p[5], p[6]⟩ p[7] = p := by
  refine Vector.ext fun i hi => ?_
  obtain rfl | rfl | rfl | rfl | rfl | rfl | rfl | rfl :
      i = 0 ∨ i = 1 ∨ i = 2 ∨ i = 3 ∨ i = 4 ∨ i = 5 ∨ i = 6 ∨ i = 7 := by omega
  case inl => exact header_of_and_mask h
  all_goals rfl

end Sys2Proof
end

section
/-! SUPPORT. What a command answers (R67), and that a failing operand check leaves its effect no part in
the outcome (R75). -/

namespace Sys2Proof.Machine

/-- R67, R140: the bytes a command writes when it is answered OK. -/
def bytesWhenOk : Instr → Word
  | .xform _ _ count _ _ => count
  | .final _ _ count _ => count
  | _ => 0

/-- `r` is an error with no bytes written, or OK with `n` bytes written. -/
def IsErrorOrOk (n : Word) (r : Response) : Prop := (∃ k, r = ⟨.error k, 0⟩) ∨ r = ⟨.ok, n⟩

section
variable {s t u : State} {n : Word} {r : Response}

theorem isErrorOrOk_of_raise {k : ErrorKind} (h : raise k s = .next t) (hr : t.rsp = some r) :
    IsErrorOrOk n r := by
  obtain rfl := Host.Outcome.next.inj h
  exact .inl ⟨k, (Option.some.inj hr).symm⟩

theorem isErrorOrOk_of_respond (h : respond n s = .next t) (hr : t.rsp = some r) :
    IsErrorOrOk n r := by
  obtain rfl := Host.Outcome.next.inj h
  exact .inr (Option.some.inj hr).symm

theorem xformWith_isErrorOrOk {cfg : Config} {src dst : Desc} {inOff count outOff : Word}
    (h : xformWith cfg src inOff count dst outOff s = .next t) (hr : t.rsp = some r) :
    IsErrorOrOk count r := by
  rcases xformWith_cases cfg src inOff count dst outOff s with ⟨_, he⟩ | ⟨-, -, ⟨-, he⟩ | ⟨-, he⟩⟩
  · exact isErrorOrOk_of_raise (he.symm.trans h) hr
  · exact nomatch he.symm.trans h
  · exact isErrorOrOk_of_respond (he.symm.trans h) hr

/-- R67: the response of a command. -/
theorem exec_command_isErrorOrOk {i : Instr} (hi : i.isCommand = true) (h : exec i s = .next t)
    (hr : t.rsp = some r) : IsErrorOrOk (bytesWhenOk i) r := by
  cases i with
  | init key nonce =>
    rcases execInit_cases key nonce s with ⟨_, he⟩ | ⟨-, -, he⟩
    · exact isErrorOrOk_of_raise (he.symm.trans h) hr
    · exact isErrorOrOk_of_respond (he.symm.trans h) hr
  | xform | final => exact xformWith_isErrorOrOk h hr
  | dispose =>
    rcases execDispose_cases s with ⟨-, he⟩ | ⟨-, he⟩
    all_goals exact isErrorOrOk_of_respond (he.symm.trans h) hr
  | illegal => exact isErrorOrOk_of_raise h hr
  | _ => exact nomatch hi
end

/-! ### Absent buffers (R75) -/

/-- R165: a command with a failing operand check does not reach its effect. -/
theorem runCommand_of_cause {cfg : Config} {ok : Bool} {c : ArgCause} {f g : State → Result} {s : State} :
    runCommand cfg ok (some c) f s = runCommand cfg ok (some c) g s := by
  rcases runCommand_cases cfg ok (some c) f s with ⟨k, hk, he⟩ | ⟨-, hc, -⟩
  · rw [he, runCommand, hk]
  · exact nomatch hc

section
variable (cfg : Config) (b l : Word)

theorem initCause_of_key_absent (nonce : Desc) :
    initCause cfg ⟨false, b, l⟩ nonce = some .keyAbsent := rfl

theorem initCause_of_nonce_absent (key : Desc) :
    initCause cfg key ⟨false, b, l⟩ = some (if key.valid then .nonceAbsent else .keyAbsent) := by
  cases h : key.valid <;> simp [initCause, h]

theorem xformCause_of_input_absent (inOff count : Word) (dst : Desc) (outOff : Word) :
    xformCause ⟨false, b, l⟩ inOff count dst outOff = some .inputNull := rfl

theorem xformCause_of_output_absent (src : Desc) (inOff count outOff : Word) :
    xformCause src inOff count ⟨false, b, l⟩ outOff =
      some (if src.valid then .outputNull else .inputNull) := by
  cases h : src.valid <;> simp [xformCause, h]
end

theorem initWith_congr_of_cause {cfg : Config} {key nonce key' nonce' : Desc} {c : ArgCause} {s : State}
    (h : initCause cfg key nonce = some c) (h' : initCause cfg key' nonce' = some c) :
    initWith cfg key nonce s = initWith cfg key' nonce' s := by
  rw [initWith, initWith, h, h']
  exact runCommand_of_cause

theorem xformWith_congr_of_cause {cfg : Config} {src dst src' dst' : Desc}
    {inOff count outOff : Word} {c : ArgCause} {s : State}
    (h : xformCause src inOff count dst outOff = some c)
    (h' : xformCause src' inOff count dst' outOff = some c) :
    xformWith cfg src inOff count dst outOff s = xformWith cfg src' inOff count dst' outOff s := by
  rw [xformWith, xformWith, h, h']
  exact runCommand_of_cause

/-! ### FINAL (R73) -/

/-- R73: FINAL is the XFORM into the `n` bytes at `a`. -/
theorem exec_final (src : Desc) (inOff n a : Word) (s : State) :
    exec (.final src inOff n a) s = exec (.xform src inOff n (finalDst n a) 0) s := rfl

theorem regionStart_finalDst (n a : Word) : regionStart (finalDst n a) 0 = a.toNat := rfl

end Sys2Proof.Machine
end

section
/-! PROOFS. The statements of `spec/30_encoding.md`: the packets of the instructions, illegal packets,
and what a packet is answered. -/

namespace Sys2Proof.Proofs

open Sys2Proof.Machine

/-- Settles O2: the decoder's equations on the encoded commands; an illegal packet matches no row. -/
theorem decodeUndoesEncode : Obligations.DecodeUndoesEncode := by
  intro i p hwf henc
  cases i with
  | init key nonce =>
    obtain rfl := Option.some.inj henc
    exact decode_encodeInit key nonce
  | xform src inOff count dst outOff =>
    obtain rfl := Option.some.inj henc
    exact decode_encodeXform src inOff count dst outOff
  | dispose =>
    obtain rfl := Option.some.inj henc
    exact decode_of_dispose_row rfl
  | final src inOff count outBase =>
    obtain rfl := Option.some.inj henc
    exact decode_encodeXform src inOff count (finalDst count outBase) 0
  | illegal q =>
    obtain rfl := Option.some.inj henc
    obtain ⟨h1, h2, h3⟩ := (headerRow_eq_none_iff q[0]).1 (Option.isNone_iff_eq_none.1 hwf)
    exact decode_of_illegalHeader (illegalHeader_of_no_row h1 h2 h3)
  | _ => exact nomatch henc

/-- Settles O3: the words a format does not use are the one thing encoding changes. -/
theorem encodeUndoesDecode : Obligations.EncodeUndoesDecode := by
  intro p
  rcases header_cases p[0] with h | h | h | h
  · have hdec := decode_of_init_row h
    have hrow : p.tableRow = some .init := by
      rw [Packet.tableRow, ← header_of_and_mask h]
      exact Laws.PacketRow.headerRow_init _ _
    refine ⟨_, congrArg encode hdec, header_of_and_mask h, (decode_encodeInit _ _).trans hdec.symm, ?_⟩
    rw [hrow]
    exact nofun
  · exact ⟨p, by rw [decode_of_xform_row h, encode, encodeXform_words h], rfl, rfl, fun _ => rfl⟩
  · have hdec := decode_of_dispose_row h
    have hrow : p.tableRow = some .dispose := by
      rw [Packet.tableRow, h]
      rfl
    refine ⟨_, congrArg encode hdec, h.symm, (decode_of_dispose_row rfl).trans hdec.symm, ?_⟩
    rw [hrow]
    exact nofun
  · exact ⟨p, congrArg encode (decode_of_illegalHeader h), rfl, rfl, fun _ => rfl⟩

/-- Settles O4: the decoder's equations, row by row. -/
theorem decodeFollowsMatchAndMask : Obligations.DecodeFollowsMatchAndMask :=
  fun _ => ⟨decode_of_init_row, decode_of_xform_row, decode_of_dispose_row,
    fun h1 h2 h3 => decode_of_illegalHeader (illegalHeader_of_no_row h1 h2 h3)⟩

/-- Settles O5: the decoder drops the unused words, and an absent buffer fails its check before its base
and length are looked at. -/
theorem unusedWordsHaveNoEffect : Obligations.UnusedWordsHaveNoEffect := by
  refine ⟨fun p q h h0 h1 h2 h3 h4 => ?_, fun p q hp hq => ?_, ?_, ?_, ?_, ?_, ?_⟩
  · rw [decode_of_init_row h, decode_of_init_row (h0 ▸ h), h0, h1, h2, h3, h4]
  · rw [decode_of_dispose_row hp, decode_of_dispose_row hq]
  · exact fun b l b' l' nonce s => initWith_congr_of_cause (initCause_of_key_absent _ b l nonce)
      (initCause_of_key_absent _ b' l' nonce)
  · exact fun b l b' l' key s => initWith_congr_of_cause (initCause_of_nonce_absent _ b l key)
      (initCause_of_nonce_absent _ b' l' key)
  · exact fun b l b' l' inOff count outOff dst s =>
      xformWith_congr_of_cause (xformCause_of_input_absent b l inOff count dst outOff)
        (xformCause_of_input_absent b' l' inOff count dst outOff)
  · exact fun b l b' l' inOff count outOff src s =>
      xformWith_congr_of_cause (xformCause_of_output_absent b l src inOff count outOff)
        (xformCause_of_output_absent b' l' src inOff count outOff)
  · exact fun b l b' l' inOff count outBase s =>
      xformWith_congr_of_cause (xformCause_of_input_absent b l inOff count (finalDst count outBase) 0)
        (xformCause_of_input_absent b' l' inOff count (finalDst count outBase) 0)

/-- Settles O11: a decoded packet is a command, and a command answers whatever the response port held. -/
theorem everyPacketIsAnswered : Obligations.EveryPacketIsAnswered := by
  intro s t p rest hin h
  have hcmd := decode_isCommand p
  have hexec : exec (decode p) (s.setInputs rest) = .next t := (step_of_packet hin).symm.trans h
  obtain ⟨hinputs, -⟩ := onlyTheTransformStores _ _ _ hexec
  refine ⟨?_, hinputs, fun r' => ?_⟩
  · obtain ⟨u, r, rfl⟩ := exec_command_answers hcmd hexec
    exact ⟨r, rfl⟩
  · calc step { s with rsp := r' }
        = exec (decode p) ((s.setRsp r').setInputs rest) := step_of_packet (s := s.setRsp r') hin
      _ = exec (decode p) (s.setInputs rest) := exec_congr_of_isCommand hcmd ⟨rfl, rfl, rfl, rfl⟩
      _ = .next t := hexec

/-- Settles O22: a command is answered by an error with no bytes, or OK with the bytes of its form. -/
theorem bytesWritten : Obligations.BytesWritten := by
  intro i s t r hi h hr
  rcases exec_command_isErrorOrOk hi h hr with ⟨k, rfl⟩ | rfl
  · rfl
  · cases i <;> rfl

/-- Settles O54: FINAL is the XFORM into the buffer `[a, n]`. -/
theorem finalEffect : Obligations.FinalEffect := by
  intro src inOff n a s hwf hphase hsrc hsrcTop hin htop hapart
  have hout : (0 : Word).toNat + n.toNat ≤ (finalDst n a).len.toNat := (Nat.zero_add _).le
  simpa only [exec_final, regionStart_finalDst, hphase] using
    xformEffect src inOff n (finalDst n a) 0 s hwf hphase hsrc rfl hsrcTop htop hin hout hapart

/-- Settles O57: a header is illegal, and the packet answered by an error, or belongs to a row. -/
theorem illegalPackets : Obligations.IllegalPackets := by
  refine fun s p rest hin => ⟨fun hill => ?_, fun hlegal => ?_⟩
  · have hdec : decode p = .illegal p := decode_of_illegalHeader hill
    have hstep {u : State} (hu : u.inputs = .packet p :: rest) :
        step u = raise .invalidArgument (u.setInputs rest) := by
      rw [step_of_packet hu, hdec]
      rfl
    exact ⟨hdec, _, ⟨hstep hin, rfl⟩, rfl, rfl, rfl, rfl, fun m => hstep (u := s.setMem m) hin⟩
  · rcases header_cases p[0] with h | h | h | h
    · exact .inl ⟨_, _, decode_of_init_row h⟩
    · exact .inr (.inl ⟨_, _, _, _, _, decode_of_xform_row h⟩)
    · exact .inr (.inr (decode_of_dispose_row h))
    · exact absurd h hlegal

/-- Settles O1: each packet by the equation of its row. -/
theorem specPacketsDecode : Obligations.SpecPacketsDecode :=
  ⟨decode_of_init_row rfl, decode_of_xform_row rfl, decode_of_dispose_row rfl, decode_of_init_row rfl,
    decode_of_illegalHeader (.inl rfl), decode_of_illegalHeader (.inr (.inr (.inr (.inl (by decide))))),
    decode_of_illegalHeader (.inr (.inr (.inr (.inr ⟨rfl, by decide⟩))))⟩

/-- Settles O6: the status codes, widened to a word. -/
theorem responseWords : Obligations.ResponseWords :=
  fun _ => ⟨rfl, rfl, rfl, fun _ => rfl⟩

/-- Settles O53: FINAL is its expansion, as an instruction and as a packet. -/
theorem finalIsXform : Obligations.FinalIsXform :=
  fun src inOff n a s => ⟨exec_final src inOff n a s, rfl⟩

/-- Settles O58: the answer to an illegal packet is the error `InvalidArgument`. -/
theorem illegalEffect : Obligations.IllegalEffect :=
  fun _ _ => ⟨_, ⟨rfl, rfl⟩, rfl, rfl, rfl, rfl⟩

end Sys2Proof.Proofs
end

section
/-! SUPPORT. The operators of `spec/40_bitops.md` as functions on words and byte sequences, and the
instructions that execute them, inside and outside their domains. -/

namespace Sys2Proof.Machine

/-! ### Addition (R80, R81) -/

/-- R80: the sum of the unsigned values, modulo `2^32`. -/
theorem add32_eq_ofNat (v w : Word) :
    add32 v w = BitVec.ofNat 32 ((v.toNat + w.toNat) % 2 ^ 32) := by
  apply BitVec.eq_of_toNat_eq
  rw [add32, BitVec.toNat_add, BitVec.toNat_ofNat, Nat.mod_mod]

theorem toNat_add1_32 (v : Word) : (add1_32 v).toNat = (v.toNat + 1) % 2 ^ 32 :=
  BitVec.toNat_add v 1

/-- R81: the increment wraps to 0 from all ones only; `CTR_INC` sees its carry by this. -/
theorem add1_32_eq_zero_iff (v : Word) : add1_32 v = 0 ↔ v = 0xFFFFFFFF :=
  add_eq_zero_iff_eq_neg

/-! ### Rotation (R82) -/

/-- R82: in its domain the model's formula is the library's rotation. -/
theorem rotl32_eq_rotateLeft (v : Word) {c : Nat} (hc : c < 32) : rotl32 v c = v.rotateLeft c := by
  rw [rotl32, BitVec.rotateLeft_def, Nat.mod_eq_of_lt hc]

/-- R82: bit `i` moves to place `(i + c) mod 32`. -/
theorem getLsbD_rotl32 (v : Word) {c i : Nat} (hc : c < 32) (hi : i < 32) :
    (rotl32 v c).getLsbD ((i + c) % 32) = v.getLsbD i := by
  rw [rotl32_eq_rotateLeft v hc, BitVec.getLsbD_rotateLeft, Nat.mod_eq_of_lt hc]
  by_cases hwrap : i + c < 32
  · have hplace : (i + c) % 32 = i + c := Nat.mod_eq_of_lt hwrap
    simp [hplace, hwrap]
  · have hplace : (i + c) % 32 = i + c - 32 := by omega
    have hlow : i + c - 32 < c := by omega
    have hback : 32 - c + (i + c - 32) = i := by omega
    simp [hplace, hlow, hback]

/-- R82: a rotation loses no bit; the opposite one brings each back to its place. -/
theorem rotl32_rotl32 (v : Word) {c : Nat} (h0 : 0 < c) (hc : c < 32) :
    rotl32 (rotl32 v c) (32 - c) = v := by
  apply BitVec.eq_of_getLsbD_eq
  intro i hi
  have hround : ((i + c) % 32 + (32 - c)) % 32 = i := by omega
  calc (rotl32 (rotl32 v c) (32 - c)).getLsbD i
      = (rotl32 (rotl32 v c) (32 - c)).getLsbD (((i + c) % 32 + (32 - c)) % 32) := by rw [hround]
    _ = (rotl32 v c).getLsbD ((i + c) % 32) := getLsbD_rotl32 _ (by omega) (by omega)
    _ = v.getLsbD i := getLsbD_rotl32 v hc hi

/-! ### Little-endian bytes (R83, R84) -/

/-- R83: the bytes of the loaded word are the four bytes at `off`. -/
theorem getElem?_eq_leByte_le32Load {buf : List Byte} {off k : Nat} (h : off + 4 ≤ buf.length)
    (hk : k < 4) : buf[off + k]? = some (leByte (le32Load buf off) k) := by
  rw [leByte_le32Load buf off k hk, List.getElem?_eq_getElem (by omega), List.getD_eq_getElem]

/-- R84: byte `k` of the stored word stands at `off + k`. -/
theorem getElem?_le32Store_add (value : Word) {buf : List Byte} {off k : Nat}
    (h : off + 4 ≤ buf.length) (hk : k < 4) :
    (le32Store value buf off)[off + k]? = some (leByte value k) := by
  rw [getElem?_le32Store value buf off (off + k) h, if_pos (by omega), Nat.add_sub_cancel_left]

/-- R84: the bytes a store leaves alone. -/
theorem getElem?_le32Store_outside (value : Word) {buf : List Byte} {off j : Nat}
    (h : off + 4 ≤ buf.length) (hj : j < off ∨ off + 4 ≤ j) :
    (le32Store value buf off)[j]? = buf[j]? := by
  rw [getElem?_le32Store value buf off j h, if_neg (by omega)]

/-- R84: a load after a store at the same offset returns the word. -/
theorem le32Load_le32Store (value : Word) {buf : List Byte} {off : Nat} (h : off + 4 ≤ buf.length) :
    le32Load (le32Store value buf off) off = value := by
  apply word_ext_leByte
  intro k hk
  have hload := getElem?_eq_leByte_le32Load (length_le32Store value buf off ▸ h) hk
  exact Option.some.inj (hload.symm.trans (getElem?_le32Store_add value h hk))

/-! ### The instructions (R82 to R84) -/

section
variable {v value : Word} {c off : Nat} {buf : List Byte} {s : State}

theorem exec_rotl32_of_count (h0 : 0 < c) (hc : c < 32) :
    exec (.rotl32 v c) s = .next { s with opOut := .word (rotl32 v c) } :=
  if_pos ⟨h0, hc⟩

theorem exec_rotl32_refused (h : c = 0 ∨ 32 ≤ c) : exec (.rotl32 v c) s = .refused .rotlCount :=
  if_neg (by omega)

theorem exec_le32Load_of_bounds (h : off + 4 ≤ buf.length) :
    exec (.le32Load buf off) s = .next { s with opOut := .word (le32Load buf off) } :=
  if_pos h

theorem exec_le32Load_refused (h : buf.length < off + 4) :
    exec (.le32Load buf off) s = .refused .le32Bounds :=
  if_neg (by omega)

theorem exec_le32Store_of_bounds (h : off + 4 ≤ buf.length) :
    exec (.le32Store value buf off) s = .next { s with opOut := .bytes (le32Store value buf off) } :=
  if_pos h

theorem exec_le32Store_refused (h : buf.length < off + 4) :
    exec (.le32Store value buf off) s = .refused .le32Bounds :=
  if_neg (by omega)

end

end Sys2Proof.Machine
end

section
/-! PROOFS. The statements of `spec/40_bitops.md`: what each operator puts out, and where the model
refuses one. -/

namespace Sys2Proof.Proofs

open Sys2Proof.Machine

/-- Settles O27: every bit moves to its place, and the opposite rotation brings it back. -/
theorem rotl32Effect : Obligations.Rotl32Effect := by
  refine fun v c s => ⟨fun h0 hc => ⟨rotl32 v c, exec_rotl32_of_count h0 hc,
    fun i hi => getLsbD_rotl32 v hc hi, ?_⟩, exec_rotl32_refused⟩
  have hback := exec_rotl32_of_count (v := rotl32 v c) (c := 32 - c) (s := s) (by omega) (by omega)
  rwa [rotl32_rotl32 v h0 hc] at hback

/-- Settles O29: the loaded word, byte by byte. -/
theorem le32LoadEffect : Obligations.Le32LoadEffect :=
  fun buf off _ => ⟨fun h => ⟨le32Load buf off, exec_le32Load_of_bounds h,
    fun _ hk => getElem?_eq_leByte_le32Load h hk⟩, exec_le32Load_refused⟩

/-- Settles O30: the stored buffer, byte by byte, and the load that follows. -/
theorem le32StoreEffect : Obligations.Le32StoreEffect := by
  refine fun value buf off s => ⟨fun h => ⟨le32Store value buf off, exec_le32Store_of_bounds h,
    length_le32Store value buf off, fun k hk => getElem?_le32Store_add value h hk,
    fun j hj => getElem?_le32Store_outside value h hj, ?_⟩, exec_le32Store_refused⟩
  have hload := exec_le32Load_of_bounds (s := s) (length_le32Store value buf off ▸ h)
  rwa [le32Load_le32Store value h] at hload

/-- Settles O25: the sum as a number. -/
theorem add32Effect : Obligations.Add32Effect := by
  intro v w s
  rw [← add32_eq_ofNat]
  rfl

/-- Settles O26: the increment as a number, and where it wraps. -/
theorem add1Effect : Obligations.Add1Effect :=
  fun v _ => ⟨add1_32 v, rfl, toNat_add1_32 v, add1_32_eq_zero_iff v⟩

/-- Settles O28: the exclusive or, bit by bit. -/
theorem xor32Effect : Obligations.Xor32Effect :=
  fun v w _ => ⟨xor32 v w, rfl, fun _ => BitVec.getLsbD_xor⟩

end Sys2Proof.Proofs
end

section
/-! SUPPORT. The ways INIT ends: over any byte space an error for a wrong phase or a failing check of
R96, and its effect under any choice of the OPEN parameters, with the words of a 16-byte key (R99). -/

namespace Sys2Proof.Machine

section
variable {cfg : Config} {key nonce : Desc} {s : State}

/-! ### The errors (R96, R100, R102) -/

/-- R96: the failing checks, each as an inequality. -/
theorem initCause_hardware_ne_none_iff (key nonce : Desc) :
    initCause hardware key nonce ≠ none ↔
      key.valid = false ∨ nonce.valid = false ∨ key.len.toNat ≠ 32 ∨ nonce.len.toNat < 8 ∨
      2 ^ 32 < key.base.toNat + key.len.toNat ∨ 2 ^ 32 < nonce.base.toNat + nonce.len.toNat := by
  rw [Ne, initCause_hardware_eq_none_iff]
  simp only [not_and_or, Bool.not_eq_true, not_le]

/-- R100: INIT outside its phase; this hardware does not look at the operands (R165). -/
theorem execInit_of_phase_ne (hphase : s.phase ≠ .uninitialized) :
    execInit key nonce s = raise .invalidState s := by
  simp [execInit, initWith, runCommand, hardware, hphase]

/-- R96: INIT in its phase, with a failing check. -/
theorem execInit_of_initCause_ne_none (hphase : s.phase = .uninitialized)
    (h : initCause hardware key nonce ≠ none) :
    execInit key nonce s = raise .invalidArgument s := by
  obtain ⟨c, hc⟩ := Option.ne_none_iff_exists'.1 h
  simp only [execInit, initWith, hc, hphase]
  rfl

/-- R164: an instruction that takes the same error over every byte space answers it, leaves no trace
and reads no byte. -/
theorem answers_error_of_raise {i : Instr} {k : ErrorKind}
    (h : ∀ m, exec i (s.setMem m) = raise k (s.setMem m)) :
    ∃ t, Answers (exec i s) (.error k) 0 t ∧ t.S = s.S ∧ t.phase = s.phase ∧ t.mem = s.mem ∧
      ∀ m : Memory, exec i { s with mem := m } = .next { t with mem := m } :=
  ⟨_, ⟨h s.mem, rfl⟩, rfl, rfl, rfl, h⟩

/-! ### The effect (R96, R99) -/

/-- R96: INIT in its phase, with every check passed, is its effect. -/
theorem initWith_of_initCause_none (hphase : s.phase = .uninitialized)
    (h : initCause cfg key nonce = none) : initWith cfg key nonce s = initEffect key nonce s := by
  simp [initWith, runCommand, hphase, h]

/-- R99: the words of a 16-byte key. -/
theorem initEffect_of_key128 (hlen : key.len.toNat = 16) :
    initEffect key nonce s = respond 0 ((s.setS (stateWords16 (s.mem.readBytes key.base.toNat 16)
      (s.mem.readBytes nonce.base.toNat 8))).setPhase .ready) := by
  have hne : key.len.toNat ≠ keyBytes := by simp [hlen, keyBytes]
  rw [initEffect, initWords, if_neg hne]
  rfl

end

end Sys2Proof.Machine
end

section
/-! PROOFS. The statements of `spec/41_state_init.md`: the errors of INIT, and the 16-byte key. -/

namespace Sys2Proof.Proofs

open Sys2Proof.Machine

/-- Settles O41: neither a failing check nor a wrong phase looks at the byte space, so the same error is
taken over any. -/
theorem initRejects : Obligations.InitRejects := by
  refine fun key nonce s => ⟨fun hphase hfail => ?_, fun hphase => ?_⟩
  · have hcause := (initCause_hardware_ne_none_iff key nonce).2 hfail
    exact answers_error_of_raise fun _ => execInit_of_initCause_ne_none hphase hcause
  · exact answers_error_of_raise fun _ => execInit_of_phase_ne hphase

/-- Settles O43: with the option on, the words are those of a 16-byte key, each from the bytes of the
byte space; this hardware rejects the operands by the key's length alone. -/
theorem key128Option : Obligations.Key128Option := by
  intro o key nonce s hphase hkey hnonce hlen hnlen hkeyTop hnonceTop
  constructor
  · have hcause : initCause ⟨true, o⟩ key nonce = none :=
      (initCause_key128_eq_none_iff o key nonce).2
        ⟨hkey, hnonce, .inr hlen, hnlen, hkeyTop, hnonceTop⟩
    have heffect := (initWith_of_initCause_none hphase hcause).trans (initEffect_of_key128 hlen)
    refine ⟨_, ⟨heffect, rfl⟩, rfl, rfl, rfl, rfl, rfl, rfl, rfl, rfl, fun j k => ?_, fun j k => ?_⟩
    · obtain ⟨hlow, hhigh⟩ := stateWords16_key (s.mem.readBytes key.base.toNat 16)
        (s.mem.readBytes nonce.base.toNat 8) j
      have hbyte := byte_of_loaded s.mem key.base.toNat 16 (4 * j.val) k.val k.isLt (by omega)
      exact ⟨(congrArg _ hlow).trans hbyte, (congrArg _ hhigh).trans hbyte⟩
    · exact (congrArg _ (stateWords16_nonce _ _ j)).trans (byte_of_loaded _ _ _ _ _ k.isLt (by omega))
  · have hcause : initCause hardware key nonce ≠ none :=
      (initCause_hardware_ne_none_iff key nonce).2 (.inr (.inr (.inl (by omega))))
    exact ⟨_, execInit_of_initCause_ne_none hphase hcause, rfl⟩

end Sys2Proof.Proofs
end

section
/-! SUPPORT. The rounds of `spec/42_core.md`: what the round operations on `X` do as instructions and
as sequences of steps, that each round is a bijection, and how the transposition of the four by four
matrix meets them. -/

namespace Sys2Proof.Machine

@[simp] theorem State.setX_setX (s : State) (v w : Words) : (s.setX v).setX w = s.setX w := rfl

/-! ### Sequences of instructions -/

@[simp] theorem execAll_nil (s : State) : execAll [] s = .next s := rfl

/-- An instruction that goes on hands its state to the rest of the sequence. -/
theorem execAll_cons_of_next {i : Instr} {is : List Instr} {s t : State} (h : exec i s = .next t) :
    execAll (i :: is) s = execAll is t := by
  simp [execAll, h]

/-- A sequence that goes on hands its state to the sequence after it. -/
theorem execAll_append_of_next {is js : List Instr} {s t : State} (h : execAll is s = .next t) :
    execAll (is ++ js) s = execAll js t := by
  induction is generalizing s with
  | nil => rw [Host.Outcome.next.inj h]; rfl
  | cons i is ih =>
    cases hi : exec i s with
    | next u => exact (execAll_cons_of_next hi).trans (ih ((execAll_cons_of_next hi).symm.trans h))
    | fault f => simp [execAll, hi] at h
    | refused r => simp [execAll, hi] at h

/-! ### The steps and the quarter round (R110, R111) -/

section
variable {t a b : Fin 16} {r : RotAmt} {s : State}

/-- R110: a step on distinct indices. -/
theorem exec_qrstep_of_distinct (hta : t ≠ a) (htb : t ≠ b) (hab : a ≠ b) :
    exec (.qrstep t a b r) s = .next (s.setX (qrStep s.X t a b r)) :=
  if_pos ⟨hta, htb, hab⟩

/-- R110: indices that are not distinct have no step. -/
theorem exec_qrstep_refused (h : t = a ∨ t = b ∨ a = b) :
    exec (.qrstep t a b r) s = .refused .qrIndices :=
  if_neg (by tauto)

end

/-- R111: the four steps of a quarter round, as instructions. -/
def quarterSteps (y0 y1 y2 y3 : Fin 16) : List Instr :=
  [.qrstep y1 y0 y3 .r7, .qrstep y2 y1 y0 .r9, .qrstep y3 y2 y1 .r13, .qrstep y0 y3 y2 .r18]

section
variable {y0 y1 y2 y3 : Fin 16}

/-- Four indices without a repetition, as inequalities. -/
theorem nodup_four_iff : [y0, y1, y2, y3].Nodup ↔
    (y0 ≠ y1 ∧ y0 ≠ y2 ∧ y0 ≠ y3) ∧ (y1 ≠ y2 ∧ y1 ≠ y3) ∧ y2 ≠ y3 := by
  simp

/-- R111: a quarter round on distinct indices. -/
theorem exec_quarterround_of_nodup (h : [y0, y1, y2, y3].Nodup) (s : State) :
    exec (.quarterround y0 y1 y2 y3) s = .next (s.setX (quarterRound s.X y0 y1 y2 y3)) :=
  if_pos h

/-- R111: the four steps one after the other are the quarter round. -/
theorem execAll_quarterSteps (h : [y0, y1, y2, y3].Nodup) (s : State) :
    execAll (quarterSteps y0 y1 y2 y3) s = .next (s.setX (quarterRound s.X y0 y1 y2 y3)) := by
  obtain ⟨⟨h01, h02, h03⟩, ⟨h12, h13⟩, h23⟩ := nodup_four_iff.1 h
  rw [quarterSteps, execAll_cons_of_next (exec_qrstep_of_distinct h01.symm h13 h03),
    execAll_cons_of_next (exec_qrstep_of_distinct h12.symm h02.symm h01.symm),
    execAll_cons_of_next (exec_qrstep_of_distinct h23.symm h13.symm h12.symm),
    execAll_cons_of_next (exec_qrstep_of_distinct h03 h02 h23.symm)]
  simp only [execAll_nil, State.setX_X, State.setX_setX, quarterRound]

/-- R111: a quarter round writes its four words only. -/
theorem getElem_quarterRound_of_notMem (x : Words) {j : Fin 16} (hj : j ∉ [y0, y1, y2, y3]) :
    (quarterRound x y0 y1 y2 y3)[j] = x[j] := by
  simp only [List.mem_cons, List.not_mem_nil, or_false, not_or] at hj
  obtain ⟨h0, h1, h2, h3⟩ := hj
  simp only [quarterRound, getElem_qrStep, if_neg h0, if_neg h1, if_neg h2, if_neg h3]

end

/-- R112, R113: the steps of four quarter rounds, put after each other, are the four in sequence. -/
theorem execAll_four_quarterSteps {a0 a1 a2 a3 b0 b1 b2 b3 c0 c1 c2 c3 d0 d1 d2 d3 : Fin 16}
    (ha : [a0, a1, a2, a3].Nodup) (hb : [b0, b1, b2, b3].Nodup) (hc : [c0, c1, c2, c3].Nodup)
    (hd : [d0, d1, d2, d3].Nodup) (s : State) :
    execAll (quarterSteps a0 a1 a2 a3 ++ (quarterSteps b0 b1 b2 b3 ++
        (quarterSteps c0 c1 c2 c3 ++ quarterSteps d0 d1 d2 d3))) s =
      .next (s.setX (quarterRound (quarterRound (quarterRound (quarterRound s.X a0 a1 a2 a3)
        b0 b1 b2 b3) c0 c1 c2 c3) d0 d1 d2 d3)) := by
  rw [execAll_append_of_next (execAll_quarterSteps ha s),
    execAll_append_of_next (execAll_quarterSteps hb _),
    execAll_append_of_next (execAll_quarterSteps hc _), execAll_quarterSteps hd]
  simp only [State.setX_X, State.setX_setX]

theorem exec_columnround (s : State) :
    exec .columnround s = .next (s.setX (columnRound s.X)) := rfl

theorem exec_rowround (s : State) : exec .rowround s = .next (s.setX (rowRound s.X)) := rfl

theorem exec_doubleround (s : State) :
    exec .doubleround s = .next (s.setX (doubleRound s.X)) := rfl

/-- R114: COLUMNROUND and then ROWROUND. -/
theorem execAll_columnround_rowround (s : State) :
    execAll [.columnround, .rowround] s = .next (s.setX (doubleRound s.X)) := by
  rw [execAll_cons_of_next (exec_columnround s), execAll_cons_of_next (exec_rowround _), execAll_nil,
    State.setX_X, State.setX_setX, doubleRound]

/-- R114, R115: `n` DOUBLEROUNDs in sequence. -/
theorem execAll_replicate_doubleround (n : Nat) (s : State) :
    execAll (List.replicate n .doubleround) s = .next (s.setX (doubleRounds n s.X)) := by
  induction n generalizing s with
  | zero => rfl
  | succ n ih =>
    rw [List.replicate_succ, execAll_cons_of_next (exec_doubleround s), ih, State.setX_X,
      State.setX_setX, doubleRounds]

/-! ### The rounds are bijections (R110, R115) -/

theorem qrStep_bijective {t a b : Fin 16} (r : RotAmt) (hta : t ≠ a) (htb : t ≠ b) :
    Function.Bijective fun x => qrStep x t a b r :=
  Function.Involutive.bijective fun x => qrStep_qrStep x r hta htb

theorem quarterRound_bijective {y0 y1 y2 y3 : Fin 16} (h : [y0, y1, y2, y3].Nodup) :
    Function.Bijective fun x => quarterRound x y0 y1 y2 y3 := by
  obtain ⟨⟨h01, h02, h03⟩, ⟨h12, h13⟩, h23⟩ := nodup_four_iff.1 h
  exact (qrStep_bijective .r18 h03 h02).comp <| (qrStep_bijective .r13 h23.symm h13.symm).comp <|
    (qrStep_bijective .r9 h12.symm h02.symm).comp <| qrStep_bijective .r7 h01.symm h13

theorem columnRound_bijective : Function.Bijective columnRound :=
  (quarterRound_bijective (by decide)).comp <| (quarterRound_bijective (by decide)).comp <|
    (quarterRound_bijective (by decide)).comp <| quarterRound_bijective (by decide)

theorem rowRound_bijective : Function.Bijective rowRound :=
  (quarterRound_bijective (by decide)).comp <| (quarterRound_bijective (by decide)).comp <|
    (quarterRound_bijective (by decide)).comp <| quarterRound_bijective (by decide)

theorem doubleRounds_bijective (n : Nat) : Function.Bijective (doubleRounds n) := by
  induction n with
  | zero => exact Function.bijective_id
  | succ n ih => exact ih.comp (rowRound_bijective.comp columnRound_bijective)

/-! ### The transposed matrix (R113, R117) -/

/-- R113: the place of an index in the transposed matrix, `4i + j` to `4j + i`. -/
def transposeIndex (i : Fin 16) : Fin 16 := ⟨4 * (i.val % 4) + i.val / 4, by omega⟩

theorem transposeIndex_involutive : Function.Involutive transposeIndex := by
  intro i
  simp only [transposeIndex, Fin.ext_iff]
  omega

theorem getElem_transposeWords (x : Words) (i : Fin 16) :
    (transposeWords x)[i] = x[transposeIndex i] := by
  simp [transposeWords, transposeIndex]

theorem transposeWords_transposeWords (x : Words) : transposeWords (transposeWords x) = x :=
  words_ext fun i => by simp only [getElem_transposeWords, transposeIndex_involutive i]

/-- R113: a step, transposed, is the step at the transposed indices. -/
theorem transposeWords_qrStep (x : Words) (t a b : Fin 16) (r : RotAmt) :
    transposeWords (qrStep x t a b r) =
      qrStep (transposeWords x) (transposeIndex t) (transposeIndex a) (transposeIndex b) r := by
  apply words_ext
  intro j
  simp only [getElem_transposeWords, getElem_qrStep, transposeIndex_involutive _,
    transposeIndex_involutive.eq_iff]

/-- R113: a quarter round, transposed, is the quarter round at the transposed indices. -/
theorem transposeWords_quarterRound (x : Words) (y0 y1 y2 y3 : Fin 16) :
    transposeWords (quarterRound x y0 y1 y2 y3) = quarterRound (transposeWords x)
      (transposeIndex y0) (transposeIndex y1) (transposeIndex y2) (transposeIndex y3) := by
  simp only [quarterRound, transposeWords_qrStep]

/-! ### PERMUTE (R115) -/

/-- R115, R116: PERMUTE writes `X` and `KS` only. -/
theorem exec_permute (s : State) :
    exec .permute s = .next { s with X := coreRounds s.S, KS := keystream s.S } := by
  simp only [exec, execPermute, permute, keystream, State.setX, State.setKS]

/-- R115: the working buffer of PERMUTE is what ten DOUBLEROUNDs leave of a copy of `S`. -/
theorem execAll_ten_doublerounds (s : State) :
    execAll (List.replicate 10 .doubleround) (s.setX s.S) = .next (s.setX (coreRounds s.S)) :=
  execAll_replicate_doubleround 10 (s.setX s.S)

/-- R115: byte `k` of word `i` of the fed-forward buffer is keystream byte `4i + k`. -/
theorem getElem_keystream_word (S : Words) (i : Fin 16) (k : Fin 4) :
    (keystream S)[4 * i.val + k.val] = leByte (add32 (coreRounds S)[i] S[i]) k.val := by
  have hword : (4 * i.val + k.val) / 4 = i.val := by omega
  have hbyte : (4 * i.val + k.val) % 4 = k.val := by omega
  simp only [getElem_keystream, hword, hbyte, Fin.getElem_fin]

end Sys2Proof.Machine
end

section
/-! PROOFS. The statements of `spec/42_core.md`: the round operations, their tables, the bijection and
PERMUTE. -/

namespace Sys2Proof.Proofs

open Sys2Proof.Machine

/-- Settles O31: a step writes its target only, and has distinct indices or no meaning. -/
theorem qrstepEffect : Obligations.QrstepEffect := by
  refine fun t a b r s => ⟨fun hta htb hab => ⟨qrStep s.X t a b r,
    exec_qrstep_of_distinct hta htb hab, ?_, fun j hj => ?_⟩, exec_qrstep_refused⟩
  · rw [getElem_qrStep, if_pos rfl]
    rfl
  · rw [getElem_qrStep, if_neg hj]

/-- Settles O32: the second step undoes the first on `X`, the only field either writes. -/
theorem qrstepTwiceRestores : Obligations.QrstepTwiceRestores := by
  intro t a b r s hta htb hab
  refine ⟨_, exec_qrstep_of_distinct hta htb hab, ?_⟩
  rw [exec_qrstep_of_distinct hta htb hab, State.setX_X, qrStep_qrStep s.X r hta htb]
  rfl

/-- Settles O33: the four steps compose to the quarter round, which keeps every other word. -/
theorem quarterroundIsFourSteps : Obligations.QuarterroundIsFourSteps :=
  fun y0 y1 y2 y3 s h => ⟨quarterRound s.X y0 y1 y2 y3, exec_quarterround_of_nodup h s,
    execAll_quarterSteps h s, fun _ hj => getElem_quarterRound_of_notMem s.X hj⟩

/-- Settles O34: the table is the steps of the four column groups. -/
theorem columnroundIsItsTable : Obligations.ColumnroundIsItsTable :=
  fun s => ⟨columnRound s.X, exec_columnround s, execAll_four_quarterSteps
    (a0 := 0) (a1 := 4) (a2 := 8) (a3 := 12) (b0 := 5) (b1 := 9) (b2 := 13) (b3 := 1)
    (c0 := 10) (c1 := 14) (c2 := 2) (c3 := 6) (d0 := 15) (d1 := 3) (d2 := 7) (d3 := 11)
    (by decide) (by decide) (by decide) (by decide) s⟩

/-- Settles O35: the table is the steps of the four row groups. -/
theorem rowroundIsItsTable : Obligations.RowroundIsItsTable :=
  fun s => ⟨rowRound s.X, exec_rowround s, execAll_four_quarterSteps
    (a0 := 0) (a1 := 1) (a2 := 2) (a3 := 3) (b0 := 5) (b1 := 6) (b2 := 7) (b3 := 4)
    (c0 := 10) (c1 := 11) (c2 := 8) (c3 := 9) (d0 := 15) (d1 := 12) (d2 := 13) (d3 := 14)
    (by decide) (by decide) (by decide) (by decide) s⟩

/-- Settles O36: transposing moves each column group onto the row group of the same place. -/
theorem rowroundIsTransposedColumnround : Obligations.RowroundIsTransposedColumnround := by
  intro x
  simp only [columnRound, transposeWords_quarterRound, transposeWords_transposeWords]
  rfl

/-- Settles O38: every step is its own inverse, so ten double rounds are a bijection. -/
theorem roundsBijective : Obligations.RoundsBijective := doubleRounds_bijective 10

/-- Settles O39: PERMUTE is ten DOUBLEROUNDs on a copy of `S` and the block made from them. -/
theorem permuteEffect : Obligations.PermuteEffect :=
  fun s => ⟨coreRounds s.S, keystream s.S, exec_permute s, execAll_ten_doublerounds s,
    getElem_keystream_word s.S⟩

/-- Settles O37: one round after the other, on `X` only. -/
theorem doubleroundIsColumnThenRow : Obligations.DoubleroundIsColumnThenRow :=
  fun s => ⟨doubleRound s.X, exec_doubleround s, execAll_columnround_rowround s⟩

end Sys2Proof.Proofs
end

section
/-! SUPPORT. The ways XFORM ends (R134): the errors of a wrong phase and of a failing check, the accepted
command and the one of zero bytes (R135); and the loop over the chunks cut at a block boundary (R137). -/

namespace Sys2Proof.Machine

/-! ### The errors (R134, R142) -/

section
variable {src dst : Desc} {inOff count outOff : Word} {s : State}

/-- R134: the failing checks, each as an inequality. -/
theorem xformCause_ne_none_iff (src : Desc) (inOff count : Word) (dst : Desc) (outOff : Word) :
    xformCause src inOff count dst outOff ≠ none ↔
      src.valid = false ∨ dst.valid = false ∨ 2 ^ 32 < src.base.toNat + src.len.toNat ∨
      2 ^ 32 < dst.base.toNat + dst.len.toNat ∨ src.len.toNat < inOff.toNat + count.toNat ∨
      dst.len.toNat < outOff.toNat + count.toNat := by
  rw [Ne, xformCause_eq_none_iff]
  simp only [not_and_or, Bool.not_eq_true, not_le]

/-- R142: XFORM outside its phase; this hardware does not look at the operands (R165). -/
theorem execXform_of_phase_ne (hphase : s.phase ≠ .ready) :
    execXform src inOff count dst outOff s = raise .invalidState s := by
  simp [execXform, xformWith, runCommand, hardware, hphase]

/-- R134: XFORM in its phase, with a failing check. -/
theorem execXform_of_xformCause_ne_none (hphase : s.phase = .ready)
    (h : xformCause src inOff count dst outOff ≠ none) :
    execXform src inOff count dst outOff s = raise .invalidArgument s := by
  obtain ⟨c, hc⟩ := Option.ne_none_iff_exists'.1 h
  simp only [execXform, xformWith, hc, hphase]
  rfl

/-! ### The accepted command (R131, R135) -/

/-- R131, R134: XFORM in its phase, with every check passed and its regions disjoint or the same, runs
its chunks. -/
theorem exec_xform_of_accepted (hphase : s.phase = .ready)
    (hcause : xformCause src inOff count dst outOff = none)
    (hoverlap : partlyOverlap (regionStart src inOff) (regionStart dst outOff) count.toNat = false) :
    exec (.xform src inOff count dst outOff) s =
      respond count (xformLoop (regionStart src inOff) (regionStart dst outOff) count.toNat
        (chunkCount count.toNat) 0 s) :=
  (execXform_of_xformCause_none hphase hcause).trans (xformEffect_of_not_partlyOverlap hoverlap)

/-- R135: XFORM of zero bytes in its phase, with every check passed. -/
theorem exec_xform_zero (hphase : s.phase = .ready)
    (hcause : xformCause src inOff 0 dst outOff = none) :
    exec (.xform src inOff 0 dst outOff) s = respond 0 s := by
  have hempty : partlyOverlap (regionStart src inOff) (regionStart dst outOff) 0 = false :=
    (partlyOverlap_eq_false_iff _ _ _).2 (by omega)
  exact exec_xform_of_accepted hphase hcause hempty

end

theorem xformLoop_phase (src dst count fuel pos : Nat) (s : State) :
    (xformLoop src dst count fuel pos s).phase = s.phase :=
  (xformLoop_fields src dst count fuel pos s).1

/-! ### The cut at a block boundary (R137) -/

/-- Whole chunks do not see how many bytes stand after them. -/
theorem xformLoop_congr_count (src dst : Nat) {count count' fuel pos : Nat}
    (h : pos + 64 * fuel ≤ count) (h' : pos + 64 * fuel ≤ count') (s : State) :
    xformLoop src dst count fuel pos s = xformLoop src dst count' fuel pos s := by
  induction fuel generalizing pos s with
  | zero => rfl
  | succ fuel ih =>
    have hb : blockBytes = 64 := rfl
    have hfull : min blockBytes (count - pos) = 64 := by omega
    have hfull' : min blockBytes (count' - pos) = 64 := by omega
    rw [xformLoop, xformLoop, if_pos (by omega), if_pos (by omega)]
    simp only [hfull, hfull']
    exact ih (by omega) (by omega) _

/-- A loop from `p` bytes into its regions is the loop over the regions that begin there. -/
theorem xformLoop_shift (src dst p count fuel pos : Nat) (s : State) :
    xformLoop src dst (p + count) fuel (p + pos) s =
      xformLoop (src + p) (dst + p) count fuel pos s := by
  induction fuel generalizing pos s with
  | zero => rfl
  | succ fuel ih =>
    simp only [xformLoop, Nat.add_lt_add_iff_left, Nat.add_sub_add_left, Nat.add_assoc, ih]

theorem chunkCount_mul_add (f n : Nat) : chunkCount (64 * f + n) = f + chunkCount n := by
  simp only [chunkCount, blockBytes]
  omega

/-- R137: the loop over `m + n` bytes, `m` a multiple of 64, is the loop over the first `m` and then the
loop over the other `n`. -/
theorem xformLoop_split (src dst : Nat) {m : Nat} (hm : 64 ∣ m) (n : Nat) (s : State) :
    xformLoop src dst (m + n) (chunkCount (m + n)) 0 s =
      xformLoop (src + m) (dst + m) n (chunkCount n) 0
        (xformLoop src dst m (chunkCount m) 0 s) := by
  obtain ⟨f, rfl⟩ := hm
  have hf : chunkCount (64 * f) = f := chunkCount_mul_add f 0
  calc xformLoop src dst (64 * f + n) (chunkCount (64 * f + n)) 0 s
      = xformLoop src dst (64 * f + n) (f + chunkCount n) 0 s := by rw [chunkCount_mul_add]
    _ = xformLoop src dst (64 * f + n) (chunkCount n) (64 * f)
          (xformLoop src dst (64 * f + n) f 0 s) := by
        rw [xformLoop_add _ _ _ _ _ _ _ (by omega), Nat.zero_add]
    _ = xformLoop (src + 64 * f) (dst + 64 * f) n (chunkCount n) 0
          (xformLoop src dst (64 * f + n) f 0 s) :=
        xformLoop_shift src dst (64 * f) n (chunkCount n) 0 _
    _ = xformLoop (src + 64 * f) (dst + 64 * f) n (chunkCount n) 0
          (xformLoop src dst (64 * f) (chunkCount (64 * f)) 0 s) := by
        rw [hf, xformLoop_congr_count src dst (count' := 64 * f) (by omega) (by omega)]

/-- R42: the region that begins `a` bytes further on. -/
theorem regionStart_add (d : Desc) {off a : Word} (h : off.toNat + a.toNat < 2 ^ 32) :
    regionStart d (off + a) = regionStart d off + a.toNat := by
  rw [regionStart, BitVec.toNat_add_of_lt h, ← Nat.add_assoc, regionStart]

/-- R134: where the checks of the whole pass, those of both parts do, and no offset wraps. -/
theorem xformCause_split {src dst : Desc} {inOff a b outOff : Word}
    (hlt : a.toNat + b.toNat < 2 ^ 32)
    (h : xformCause src inOff (a + b) dst outOff = none) :
    xformCause src inOff a dst outOff = none ∧
    xformCause src (inOff + a) b dst (outOff + a) = none ∧
    inOff.toNat + a.toNat < 2 ^ 32 ∧ outOff.toNat + a.toNat < 2 ^ 32 := by
  obtain ⟨hsrc, hdst, hsrcTop, hdstTop, hin, hout⟩ := (xformCause_eq_none_iff _ _ _ _ _).1 h
  rw [BitVec.toNat_add_of_lt hlt] at hin hout
  have hinLt : inOff.toNat + a.toNat < 2 ^ 32 := by omega
  have houtLt : outOff.toNat + a.toNat < 2 ^ 32 := by omega
  simp only [xformCause_eq_none_iff, BitVec.toNat_add_of_lt hinLt, BitVec.toNat_add_of_lt houtLt]
  exact ⟨⟨hsrc, hdst, hsrcTop, hdstTop, by omega, by omega⟩,
    ⟨hsrc, hdst, hsrcTop, hdstTop, by omega, by omega⟩, hinLt, houtLt⟩

/-- R52: cutting two regions at one place cuts no partial overlap into them. -/
theorem partlyOverlap_split {x y m n : Nat} (h : partlyOverlap x y (m + n) = false) :
    partlyOverlap x y m = false ∧ partlyOverlap (x + m) (y + m) n = false := by
  simp only [partlyOverlap_eq_false_iff] at h ⊢
  omega

/-! ### One XFORM after another (R137, R139) -/

/-- R32, R67: a command after an answer goes on from what the answered command left. -/
theorem exec_after_answer {i : Instr} (hi : i.isCommand = true) (u : State) (r : Option Response) :
    exec i ((clearTransients u).setRsp r) = exec i u :=
  exec_congr_of_isCommand hi ⟨rfl, rfl, rfl, rfl⟩

/-- R131, R143: what an accepted XFORM answers, and the output region it leaves. -/
theorem exec_xform_output {src dst : Desc} {inOff count outOff : Word} {s : State}
    (hwf : Memory.wf s.mem) (hphase : s.phase = .ready)
    (hcause : xformCause src inOff count dst outOff = none)
    (hoverlap : partlyOverlap (regionStart src inOff) (regionStart dst outOff) count.toNat = false) :
    ∃ t, Answers (exec (.xform src inOff count dst outOff) s) .ok count t ∧ Memory.wf t.mem ∧
      t.phase = .ready ∧ ∀ k, k < count.toNat → t.mem.read (regionStart dst outOff + k) =
        s.mem.read (regionStart src inOff + k) ^^^ streamByte s.S k := by
  refine ⟨_, ⟨exec_xform_of_accepted hphase hcause hoverlap, rfl⟩,
    xformLoop_wf hwf hcause hoverlap, (xformLoop_phase _ _ _ _ _ s).trans hphase, fun k hk => ?_⟩
  refine (read_xformLoop hwf hoverlap (outputRegion_le_addrSpace hcause) _).trans ?_
  rw [if_pos (by omega), Nat.add_sub_cancel_left]

end Sys2Proof.Machine
end

section
/-! PROOFS. The statements of `spec/43_stream_xor_transform.md`: the errors of XFORM, the XFORM of zero
bytes, continuation, and the transform as its own inverse. -/

namespace Sys2Proof.Proofs

open Sys2Proof.Machine

/-- Settles O48: neither a failing check nor a wrong phase looks at the byte space, so the same error is
taken over any. -/
theorem xformRejects : Obligations.XformRejects := by
  refine fun src inOff count dst outOff s => ⟨fun hphase hfail => ?_, fun hphase => ?_⟩
  · have hcause := (xformCause_ne_none_iff src inOff count dst outOff).2 hfail
    exact answers_error_of_raise fun _ => execXform_of_xformCause_ne_none hphase hcause
  · exact answers_error_of_raise fun _ => execXform_of_phase_ne hphase

/-- Settles O50: with no chunk to run, the answer is all an accepted XFORM does, over any byte space. -/
theorem xformOfZeroBytes : Obligations.XformOfZeroBytes :=
  fun _ _ _ _ s hphase hcause => ⟨_, ⟨exec_xform_zero hphase hcause, rfl⟩, rfl, rfl, rfl,
    fun m => exec_xform_zero (s := s.setMem m) hphase hcause⟩

/-- Settles O51: the second XFORM goes on from what the first left, and the loop over the whole is the
two loops one after the other. -/
theorem splitAtMultipleOf64 : Obligations.SplitAtMultipleOf64 := by
  intro src inOff a b dst outOff s hphase hdvd hlt hcause hoverlap
  obtain ⟨hcauseA, hcauseB, hin, hout⟩ := xformCause_split hlt hcause
  obtain ⟨hoverlapA, hoverlapB⟩ := partlyOverlap_split hoverlap
  have hsplit := xformLoop_split (regionStart src inOff) (regionStart dst outOff) hdvd b.toNat s
  rw [← regionStart_add src hin, ← regionStart_add dst hout] at hoverlapB hsplit
  rw [← BitVec.toNat_add_of_lt hlt] at hoverlap hsplit
  have hready : (xformLoop (regionStart src inOff) (regionStart dst outOff) a.toNat
      (chunkCount a.toNat) 0 s).phase = .ready := (xformLoop_phase _ _ _ _ _ s).trans hphase
  have hsecond := exec_xform_of_accepted hready hcauseB hoverlapB
  rw [← hsplit] at hsecond
  exact ⟨_, _, _, ⟨exec_xform_of_accepted hphase hcauseA hoverlapA, rfl⟩,
    ⟨(exec_after_answer rfl _ _).trans hsecond, rfl⟩,
    ⟨exec_xform_of_accepted hphase hcause hoverlap, rfl⟩, rfl, rfl⟩

/-- Settles O52: both passes meet the same stream byte at `k`, and the two cancel. -/
theorem transformTwiceRestores : Obligations.TransformTwiceRestores := by
  intro src o dst q back r n s hwf hphase hcause hcauseBack hoverlap hoverlapBack
  obtain ⟨t, hfirst, hwf', hphase', hout⟩ := exec_xform_output hwf hphase hcause hoverlap
  obtain ⟨u, hsecond, -, -, hback⟩ :=
    exec_xform_output (s := t.setS s.S) hwf' hphase' hcauseBack hoverlapBack
  refine ⟨t, u, hfirst, hsecond, fun k hk => ?_⟩
  calc u.mem.read (regionStart back r + k)
      = t.mem.read (regionStart dst q + k) ^^^ streamByte s.S k := hback k hk
    _ = s.mem.read (regionStart src o + k) ^^^ streamByte s.S k ^^^ streamByte s.S k := by
        rw [hout k hk]
    _ = s.mem.read (regionStart src o + k) := by
        rw [BitVec.xor_assoc, BitVec.xor_self, BitVec.xor_zero]

end Sys2Proof.Proofs
end

section
/-! SUPPORT. DISPOSE in its two cases and once more (R151, R153, R154), an instruction repeated from a
state it keeps, and the rows of the lifecycle table (R152) that more than one phase shares. -/

namespace Sys2Proof.Machine

section
variable {s t : State}

/-! ### DISPOSE (R151, R153, R154) -/

/-- R154: DISPOSE in `Uninitialized` answers and nothing else. -/
theorem execDispose_of_uninitialized (hphase : s.phase = .uninitialized) :
    execDispose s = respond 0 s := by
  rcases execDispose_cases s with ⟨-, h⟩ | ⟨hne, -⟩
  · exact h
  · exact absurd hphase hne

/-- R151: DISPOSE in `Ready` and `Disposed` zeroises. -/
theorem execDispose_of_phase_ne (hphase : s.phase ≠ .uninitialized) :
    execDispose s = respond 0 ((s.setS zeroWords).setPhase .disposed) := by
  rcases execDispose_cases s with ⟨heq, -⟩ | ⟨-, h⟩
  · exact absurd heq hphase
  · exact h

/-- R153: DISPOSE keeps the state a DISPOSE left. -/
theorem execDispose_after_execDispose (h : execDispose s = .next t) : execDispose t = .next t := by
  rcases execDispose_cases s with ⟨hphase, he⟩ | ⟨-, he⟩
  · obtain rfl := next_unique he h
    exact execDispose_of_uninitialized hphase
  · obtain rfl := next_unique he h
    exact execDispose_of_phase_ne nofun

/-- An instruction that keeps the state it leaves may be repeated any number of times. -/
theorem execAll_replicate_of_fixed {i : Instr} (h : exec i s = .next t) (hfix : exec i t = .next t)
    (n : Nat) : execAll (List.replicate (n + 1) i) s = .next t := by
  induction n generalizing s with
  | zero => exact execAll_cons_of_next h
  | succ n ih => exact (execAll_cons_of_next h).trans (ih hfix)

/-- R153: any number of DISPOSEs leave the state the first one left. -/
theorem execAll_replicate_dispose (h : execDispose s = .next t) (n : Nat) :
    execAll (List.replicate (n + 1) .dispose) s = .next t :=
  execAll_replicate_of_fixed (i := .dispose) h (execDispose_after_execDispose h) n

/-! ### Rows of the lifecycle table (R152) -/

variable {p : Phase}

/-- R164: an error changes neither `PHASE` nor `S`. -/
theorem answers_error_keeps {i : Instr} {k : ErrorKind} (h : exec i s = raise k s)
    (hphase : s.phase = p) :
    ∃ t, Answers (exec i s) (.error k) 0 t ∧ t.phase = p ∧ t.S = s.S :=
  ⟨_, ⟨h, rfl⟩, hphase, rfl⟩

/-- R152: INIT in `Ready` and `Disposed`. -/
theorem init_answers_invalidState (key nonce : Desc) (hphase : s.phase = p)
    (hp : p ≠ .uninitialized) :
    ∃ t, Answers (exec (.init key nonce) s) (.error .invalidState) 0 t ∧ t.phase = p ∧ t.S = s.S :=
  answers_error_keeps (execInit_of_phase_ne (hphase ▸ hp)) hphase

/-- R152: XFORM in `Uninitialized` and `Disposed`. -/
theorem xform_answers_invalidState (src : Desc) (inOff count : Word) (dst : Desc) (outOff : Word)
    (hphase : s.phase = p) (hp : p ≠ .ready) :
    ∃ t, Answers (exec (.xform src inOff count dst outOff) s) (.error .invalidState) 0 t ∧
      t.phase = p ∧ t.S = s.S :=
  answers_error_keeps (execXform_of_phase_ne (hphase ▸ hp)) hphase

/-- R152: DISPOSE in `Ready` and `Disposed`. -/
theorem dispose_answers_zeroised (hphase : s.phase = p) (hp : p ≠ .uninitialized) :
    ∃ t, Answers (exec .dispose s) .ok 0 t ∧ t.phase = .disposed ∧ ∀ i : Fin 16, t.S[i] = 0 :=
  ⟨_, ⟨execDispose_of_phase_ne (hphase ▸ hp), rfl⟩, rfl, getElem_zeroWords⟩

end

end Sys2Proof.Machine
end

section
/-! PROOFS. The statements of `spec/44_dispose.md`: the lifecycle table, DISPOSE and ZEROIZE. -/

namespace Sys2Proof.Proofs

open Sys2Proof.Machine

/-- Settles O21: the table row by row; the phase and the operand checks pick the outcome. -/
theorem lifecycleTable : Obligations.LifecycleTable := by
  intro s
  refine ⟨fun _ => ?illegal, fun key nonce hphase hcause => ?initOk,
    fun key nonce hphase hcause => ?initFails, fun src o n dst q hphase => ?xformEarly,
    fun hphase => ?disposeEarly, fun key nonce hphase => ?initAgain,
    fun src o n dst q hphase hcause hoverlap => ?xformOk,
    fun src o n dst q hphase hcause => ?xformFails, fun hphase => ?dispose,
    fun key nonce hphase => ?initLate, fun src o n dst q hphase => ?xformLate,
    fun hphase => ?disposeAgain, fun rest hin => ?reset⟩
  case illegal => exact answers_error_keeps rfl rfl
  case initOk => exact ⟨_, ⟨initWith_of_initCause_none hphase hcause, rfl⟩, rfl, rfl⟩
  case initFails => exact answers_error_keeps (execInit_of_initCause_ne_none hphase hcause) hphase
  case xformEarly => exact xform_answers_invalidState src o n dst q hphase nofun
  case disposeEarly => exact ⟨_, ⟨execDispose_of_uninitialized hphase, rfl⟩, hphase, rfl⟩
  case initAgain => exact init_answers_invalidState key nonce hphase nofun
  case xformOk =>
    exact ⟨_, ⟨exec_xform_of_accepted hphase hcause hoverlap, rfl⟩,
      (xformLoop_phase _ _ _ _ _ s).trans hphase, counter_xformLoop _ _ _ s⟩
  case xformFails => exact answers_error_keeps (execXform_of_xformCause_ne_none hphase hcause) hphase
  case dispose => exact dispose_answers_zeroised hphase nofun
  case initLate => exact init_answers_invalidState key nonce hphase nofun
  case xformLate => exact xform_answers_invalidState src o n dst q hphase nofun
  case disposeAgain => exact dispose_answers_zeroised hphase nofun
  case reset => exact ⟨_, (step_of_reset hin).trans (hostReset_eq _), rfl, rfl, getElem_zeroWords⟩

/-- Settles O55: DISPOSE answers alone or zeroises, and keeps what it left. -/
theorem disposeEffect : Obligations.DisposeEffect := by
  intro s
  rcases execDispose_cases s with ⟨hphase, h⟩ | ⟨hphase, h⟩
  · refine ⟨_, ⟨h, rfl⟩, rfl, rfl, fun hlate => ?_, fun _ => ⟨hphase, rfl⟩,
      execAll_replicate_dispose h⟩
    simp [hphase] at hlate
  · exact ⟨_, ⟨h, rfl⟩, rfl, rfl, fun _ => ⟨rfl, getElem_zeroWords⟩, fun hu => absurd hu hphase,
      execAll_replicate_dispose h⟩

/-- Settles O56: ZEROIZE writes sixteen zero words into `S`. -/
theorem zeroizeEffect : Obligations.ZeroizeEffect :=
  fun _ => ⟨zeroWords, rfl, getElem_zeroWords⟩

end Sys2Proof.Proofs
end

section
/-! SUPPORT. Errors (R164, R165): a command that reports one took it in its checks, which read no byte;
and the order of the two checks with `ERR_ORDER = ArgumentFirst`. -/

namespace Sys2Proof.Machine

/-! ### A reported error was taken by the checks (R164) -/

/-- The result is no next state whose response is an error. -/
def ReportsNoError (r : Result) : Prop := ∀ t k n, r = .next t → t.rsp ≠ some ⟨.error k, n⟩

theorem reportsNoError_respond (n : Word) (s : State) : ReportsNoError (respond n s) := by
  rintro _ k _ ⟨⟩
  simp

theorem reportsNoError_initEffect (key nonce : Desc) (s : State) :
    ReportsNoError (initEffect key nonce s) :=
  reportsNoError_respond 0 _

theorem reportsNoError_xformEffect (src : Desc) (inOff count : Word) (dst : Desc) (outOff : Word)
    (s : State) : ReportsNoError (xformEffect src inOff count dst outOff s) := by
  cases h : partlyOverlap (regionStart src inOff) (regionStart dst outOff) count.toNat with
  | true =>
    rw [xformEffect_of_partlyOverlap h]
    exact fun _ _ _ => nofun
  | false =>
    rw [xformEffect_of_not_partlyOverlap h]
    exact reportsNoError_respond count _

theorem reportsNoError_execDispose (s : State) : ReportsNoError (execDispose s) := by
  rcases execDispose_cases s with ⟨-, h⟩ | ⟨-, h⟩
  all_goals
    rw [h]
    exact reportsNoError_respond 0 _

section
variable {s t : State} {k : ErrorKind} {n : Word}

/-- R165: a command whose effect reports no error, and which reports one, takes that error in every
state its checks see alike. -/
theorem runCommand_eq_raise_of_error {cfg : Config} {ok : Bool} {c : Option ArgCause}
    {f : State → Result} (hf : ReportsNoError (f s)) (h : runCommand cfg ok c f s = .next t)
    (hr : t.rsp = some ⟨.error k, n⟩) (u : State) : runCommand cfg ok c f u = raise k u := by
  rcases runCommand_cases cfg ok c f s with ⟨k', hk', he⟩ | ⟨-, -, he⟩
  · obtain rfl := next_unique he h
    obtain ⟨⟩ := hr
    rw [runCommand, hk']
  · exact absurd hr (hf t k n (he.symm.trans h))

/-- R164: a command that reports an error takes it over every byte space. -/
theorem exec_eq_raise_of_error {i : Instr} (hi : i.isCommand = true) (h : exec i s = .next t)
    (hr : t.rsp = some ⟨.error k, n⟩) (m : Memory) :
    exec i (s.setMem m) = raise k (s.setMem m) := by
  cases i with
  | init key nonce => exact runCommand_eq_raise_of_error (reportsNoError_initEffect key nonce s) h hr _
  | xform | final =>
    exact runCommand_eq_raise_of_error (reportsNoError_xformEffect _ _ _ _ _ s) h hr _
  | dispose => exact absurd hr (reportsNoError_execDispose s t k n h)
  | illegal =>
    obtain rfl := Host.Outcome.next.inj h
    obtain ⟨⟩ := hr
    rfl
  | _ => exact nomatch hi

end

/-! ### ArgumentFirst (R165, D8) -/

section
variable {k128 ok : Bool} {c : Option ArgCause} {f : State → Result} {s : State}

/-- R165: the operands are judged whatever the phase. -/
theorem runCommand_argumentFirst_of_cause (hc : c ≠ none) :
    runCommand ⟨k128, .argumentFirst⟩ ok c f s = raise .invalidArgument s := by
  obtain ⟨c, rfl⟩ := Option.ne_none_iff_exists'.1 hc
  rfl

/-- R165: with good operands a wrong phase is the error. -/
theorem runCommand_argumentFirst_of_wrong_phase {p : Prop} [Decidable p] (hc : c = none) (hp : ¬p) :
    runCommand ⟨k128, .argumentFirst⟩ (decide p) c f s = raise .invalidState s := by
  rw [runCommand, hc, decide_eq_false hp, firstError_argumentFirst_wrong]

end

end Sys2Proof.Machine
end

section
/-! PROOFS. The statements of `spec/60_exceptions.md`: an error leaves no trace, and the stages by which
a command reports one. -/

namespace Sys2Proof.Proofs

open Sys2Proof.Machine

/-- Settles O18: the command took the error over this byte space and takes it over any other, and taking
an error only answers it. -/
theorem errorsLeaveNoTrace : Obligations.ErrorsLeaveNoTrace := by
  intro i s t k n hi h hr
  have hraise : ∀ m, exec i (s.setMem m) = raise k (s.setMem m) := exec_eq_raise_of_error hi h hr
  obtain rfl := next_unique (hraise s.mem) h
  obtain ⟨⟩ := hr
  exact ⟨rfl, rfl, rfl, rfl, rfl, rfl, rfl, rfl, hraise⟩

/-- Settles O19: each stage by the equation of the command that reaches it. -/
theorem errorPriority : Obligations.ErrorPriority := by
  intro s
  refine ⟨fun _ => ?illegal, fun _ _ hphase => ?initState, fun _ _ hphase hcause => ?initArgument,
    fun _ _ _ _ _ hphase => ?xformState, fun _ _ _ _ _ hphase hcause => ?xformArgument,
    fun _ _ _ _ hphase => ?finalState, fun _ _ _ _ hphase hcause => ?finalArgument, ?dispose,
    fun _ _ hphase hcause => ?initOk, fun _ _ _ _ _ hphase hcause hoverlap => ?xformOk⟩
  case illegal => exact ⟨_, rfl, rfl⟩
  case initState => exact ⟨_, execInit_of_phase_ne hphase, rfl⟩
  case initArgument => exact ⟨_, execInit_of_initCause_ne_none hphase hcause, rfl⟩
  case xformState | finalState => exact ⟨_, execXform_of_phase_ne hphase, rfl⟩
  case xformArgument | finalArgument =>
    exact ⟨_, execXform_of_xformCause_ne_none hphase hcause, rfl⟩
  case dispose =>
    rcases execDispose_cases s with ⟨-, h⟩ | ⟨-, h⟩
    all_goals exact ⟨_, h, rfl⟩
  case initOk => exact ⟨_, initWith_of_initCause_none hphase hcause, rfl⟩
  case xformOk => exact ⟨_, exec_xform_of_accepted hphase hcause hoverlap, rfl⟩

/-- Settles O20: with `ArgumentFirst` the checks of both commands look at the operands first. -/
theorem argumentFirstSwapsTheStages : Obligations.ArgumentFirstSwapsTheStages :=
  fun _ _ =>
    ⟨fun _ _ hcause => ⟨_, runCommand_argumentFirst_of_cause hcause, rfl⟩,
      fun _ _ hcause hphase => ⟨_, runCommand_argumentFirst_of_wrong_phase hcause hphase, rfl⟩,
      fun _ _ _ _ _ hcause => ⟨_, runCommand_argumentFirst_of_cause hcause, rfl⟩,
      fun _ _ _ _ _ hcause hphase =>
        ⟨_, runCommand_argumentFirst_of_wrong_phase hcause hphase, rfl⟩⟩

end Sys2Proof.Proofs
end
